-- ==== Sys2Proof/Word.lean ====
section
/-!
DEFINITION. The sizes of the machine's values (00_scope.md R8): bytes, 16-bit words, 12-bit addresses of an
instruction word, register and key numbers. Every value is unsigned (00_scope.md R10).
-/
namespace Sys2Proof

/-- A byte: a general register, a memory byte, a timer, an immediate `nn` (00_scope.md R8). -/
abbrev Byte := BitVec 8

/-- A 16-bit value: `I`, `PC`, a stack entry, an instruction word (00_scope.md R8). -/
abbrev Word := BitVec 16

/-- The 12-bit immediate `nnn` (30_encoding.md R81). -/
abbrev Addr12 := BitVec 12

/-- The number of a general register, 0x0..0xF (10_state.md R21). -/
abbrev Reg := Fin 16

/-- `VF`, the register that is also the flag (10_state.md R22). -/
abbrev regF : Reg := 15

/-- The number of a logical key, 0x0..0xF (10_state.md R36). -/
abbrev KeyIx := Fin 16

end Sys2Proof
end

