-- ==== Sys2Proof/Config.lean ====
section
/-!
DEFINITION. The parameters the source leaves open and the model takes as an argument (00_scope.md R9), and the free
values of the random source and of the driver.
-/
namespace Sys2Proof

/-- Which register 8XY6 and 8XYE shift (00_scope.md R9, 92_eei_decisions.md D11). -/
inductive ShiftQuirk
  | vx
  | vy
  deriving DecidableEq, Repr

/-- Whether 8XY1, 8XY2 and 8XY3 clear VF (00_scope.md R9, 92_eei_decisions.md D12). -/
inductive LogicVfQuirk
  | unchanged
  | reset
  deriving DecidableEq, Repr

/-- What the loader does with an image longer than 3584 bytes (00_scope.md R9, 92_eei_decisions.md D25). -/
inductive LoaderOversize
  | truncate
  | reject
  deriving DecidableEq, Repr

/-- The open parameters of 00_scope.md R9 that a running session consults. The fourth, FONT_BYTES, is an argument of
session creation and of `loadFont` (70_reset_and_hazards.md R282, 60_exceptions.md R263). -/
structure Params where
  shiftQuirk : ShiftQuirk
  logicVfQuirk : LogicVfQuirk
  loaderOversize : LoaderOversize
  deriving DecidableEq, Repr

/-- The defaults of 00_scope.md R9. DESIGN CHOICE for `loaderOversize`: R9 says "there is no default"
(notes/assumptions/1.md). -/
def Params.default : Params :=
  { shiftQuirk := .vx, logicVfQuirk := .unchanged, loaderOversize := .truncate }

/-- The random source: the byte of the `k`-th draw of the session. A FREE VALUE with no body: "any sequence is
acceptable" (41_alu.md R142, 60_exceptions.md R267, 92_eei_decisions.md D27; notes/assumptions/2.md). -/
opaque Config.randomByte : Nat → Byte

/-- An operation of the block (10_state.md R43), one atomic step on the state (70_reset_and_hazards.md R285):
`executeOne()` by the core, `tick()` by the timer driver, the others by the host. -/
inductive Operation
  | executeOne
  | tick
  | setKey (k : KeyIx) (b : Bool)
  | readDisplay
  | reset
  | loadFont (font : Vector Byte 80)
  | loadProgram (image : List Byte)
  deriving DecidableEq, Repr, Inhabited

/-- The operation that a driver of whom nothing is known takes next, at its `k`-th choice. A FREE VALUE with no body:
steps are taken "in any order the driver chooses" (70_reset_and_hazards.md R285, 60_exceptions.md R256, R269;
notes/assumptions/3.md). -/
opaque Config.nextOperation : Nat → Operation

end Sys2Proof
end

