-- ==== Sys2Proof/Syntax.lean ====
section
/-!
DEFINITION. The 35 instructions of spec/opcode_table.json, one constructor a row (30_encoding.md R84), with their
operands as R83 gives them: `x`, `y` register numbers, `nn` a byte, `nnn` a 12-bit address, `n` a count 0..15.
-/
namespace Sys2Proof

/-- One instruction (30_encoding.md R84). -/
inductive Instr
  /-- 0NNN, SYS nnn (40_control_flow.md R100). -/
  | sys (nnn : Addr12)
  /-- 00E0, CLS (43_display.md R200). -/
  | cls
  /-- 00EE, RET (40_control_flow.md R101). -/
  | ret
  /-- 1NNN, JP nnn (40_control_flow.md R102). -/
  | jp (nnn : Addr12)
  /-- 2NNN, CALL nnn (40_control_flow.md R103). -/
  | call (nnn : Addr12)
  /-- 3XNN, SE Vx, nn (40_control_flow.md R104). -/
  | seImm (x : Reg) (nn : Byte)
  /-- 4XNN, SNE Vx, nn (40_control_flow.md R105). -/
  | sneImm (x : Reg) (nn : Byte)
  /-- 5XYn, SE Vx, Vy (40_control_flow.md R106). -/
  | seReg (x y : Reg)
  /-- 6XNN, LD Vx, nn (41_alu.md R130). -/
  | ldImm (x : Reg) (nn : Byte)
  /-- 7XNN, ADD Vx, nn (41_alu.md R131). -/
  | addImm (x : Reg) (nn : Byte)
  /-- 8XY0, LD Vx, Vy (41_alu.md R133). -/
  | ldReg (x y : Reg)
  /-- 8XY1, OR Vx, Vy (41_alu.md R134). -/
  | orReg (x y : Reg)
  /-- 8XY2, AND Vx, Vy (41_alu.md R135). -/
  | andReg (x y : Reg)
  /-- 8XY3, XOR Vx, Vy (41_alu.md R136). -/
  | xorReg (x y : Reg)
  /-- 8XY4, ADD Vx, Vy (41_alu.md R137). -/
  | addReg (x y : Reg)
  /-- 8XY5, SUB Vx, Vy (41_alu.md R138). -/
  | sub (x y : Reg)
  /-- 8XY6, SHR Vx, Vy (41_alu.md R139). -/
  | shr (x y : Reg)
  /-- 8XY7, SUBN Vx, Vy (41_alu.md R140). -/
  | subn (x y : Reg)
  /-- 8XYE, SHL Vx, Vy (41_alu.md R141). -/
  | shl (x y : Reg)
  /-- 9XYn, SNE Vx, Vy (40_control_flow.md R107). -/
  | sneReg (x y : Reg)
  /-- ANNN, LD I, nnn (42_index_memory.md R170). -/
  | ldI (nnn : Addr12)
  /-- BNNN, JP V0, nnn (40_control_flow.md R108). -/
  | jpV0 (nnn : Addr12)
  /-- CXNN, RND Vx, nn (41_alu.md R142). -/
  | rnd (x : Reg) (nn : Byte)
  /-- DXYN, DRW Vx, Vy, n (43_display.md R201). -/
  | drw (x y : Reg) (n : Fin 16)
  /-- EX9E, SKP Vx (44_input_timers.md R220). -/
  | skp (x : Reg)
  /-- EXA1, SKNP Vx (44_input_timers.md R221). -/
  | sknp (x : Reg)
  /-- FX07, LD Vx, DT (44_input_timers.md R223). -/
  | ldVxDt (x : Reg)
  /-- FX0A, LD Vx, K (44_input_timers.md R222). -/
  | ldK (x : Reg)
  /-- FX15, LD DT, Vx (44_input_timers.md R224). -/
  | ldDt (x : Reg)
  /-- FX18, LD ST, Vx (44_input_timers.md R225). -/
  | ldSt (x : Reg)
  /-- FX1E, ADD I, Vx (42_index_memory.md R171). -/
  | addI (x : Reg)
  /-- FX29, LD F, Vx (42_index_memory.md R172). -/
  | ldF (x : Reg)
  /-- FX33, LD B, Vx (42_index_memory.md R173). -/
  | ldB (x : Reg)
  /-- FX55, LD [I], Vx (42_index_memory.md R174). -/
  | ldStore (x : Reg)
  /-- FX65, LD Vx, [I] (42_index_memory.md R175). -/
  | ldLoad (x : Reg)
  deriving DecidableEq, Repr

end Sys2Proof
end

