-- ==== Sys2Proof/WellFormed.lean ====
section
/-!
DEFINITION. Which terms of `Instr` are instructions of the machine. The operand types already bound every field; the
one condition left is SYS's: family-0 words whose low byte is 0xE0 or 0xEE are CLS and RET, never SYS
(30_encoding.md R85, R87, 40_control_flow.md R100).
-/
namespace Sys2Proof

/-- The low byte of a 12-bit operand, the `nn` of a family-0 word (30_encoding.md R81). -/
def Instr.lowByte (nnn : Addr12) : Byte := nnn.extractLsb' 0 8

/-- `nn` not 0xE0 and not 0xEE for SYS; nothing for the others (40_control_flow.md R100 "Encoding"). -/
def Instr.wellFormed : Instr → Bool
  | .sys nnn => Instr.lowByte nnn != 0xE0#8 && Instr.lowByte nnn != 0xEE#8
  | .cls | .ret | .jp _ | .call _ | .seImm _ _ | .sneImm _ _ | .seReg _ _ | .ldImm _ _ | .addImm _ _
  | .ldReg _ _ | .orReg _ _ | .andReg _ _ | .xorReg _ _ | .addReg _ _ | .sub _ _ | .shr _ _ | .subn _ _
  | .shl _ _ | .sneReg _ _ | .ldI _ | .jpV0 _ | .rnd _ _ | .drw _ _ _ | .skp _ | .sknp _ | .ldVxDt _
  | .ldK _ | .ldDt _ | .ldSt _ | .addI _ | .ldF _ | .ldB _ | .ldStore _ | .ldLoad _ => true

end Sys2Proof
end

