-- ==== Sys2Proof/Decode.lean ====
section
/-!
DEFINITION. Decoding and encoding of the 16-bit instruction word (30_encoding.md R81 to R89, 20_memory.md R65). Every
field is pulled out here, once.
-/
namespace Sys2Proof

/-- The word of two bytes: the byte at the lower address is bits 15..8 (20_memory.md R64, R65). -/
def wordOfBytes (first second : Byte) : Word := first ++ second

/-- The byte of a word that stands at the lower address, bits 15..8 (20_memory.md R65). -/
def firstByte (w : Word) : Byte := w.extractLsb' 8 8

/-- The byte of a word that stands at the higher address, bits 7..0 (20_memory.md R65). -/
def secondByte (w : Word) : Byte := w.extractLsb' 0 8

/-- The family, bits 15..12 (30_encoding.md R81). -/
def fieldF (w : Word) : BitVec 4 := w.extractLsb' 12 4

/-- The register number `x`, bits 11..8 (30_encoding.md R81). -/
def fieldX (w : Word) : Reg := (w.extractLsb' 8 4).toFin

/-- The register number `y`, bits 7..4 (30_encoding.md R81). -/
def fieldY (w : Word) : Reg := (w.extractLsb' 4 4).toFin

/-- The nibble `n`, bits 3..0, as the bits that select a sub-operation of family 0x8 (30_encoding.md R81). -/
def fieldN (w : Word) : BitVec 4 := w.extractLsb' 0 4

/-- The byte `nn`, bits 7..0 (30_encoding.md R81). -/
def fieldNN (w : Word) : Byte := w.extractLsb' 0 8

/-- The address `nnn`, bits 11..0 (30_encoding.md R81). -/
def fieldNNN (w : Word) : Addr12 := w.extractLsb' 0 12

/-- Why no instruction is read: the words of 30_encoding.md R86 by their family, and a byte list that is too short to
hold an instruction (R89: every instruction is exactly 2 bytes). -/
inductive DecodeError
  /-- 8XYn with n in 0x8..0xD or 0xF. -/
  | unknownAluOp (n : BitVec 4)
  /-- EXnn with nn neither 0x9E nor 0xA1. -/
  | unknownKeyOp (nn : Byte)
  /-- FXnn with nn outside the nine values of the table. -/
  | unknownMiscOp (nn : Byte)
  /-- Fewer than two bytes. -/
  | truncated
  deriving DecidableEq, Repr

/-- Family 0x0 selects on its low byte alone (30_encoding.md R85, 92_eei_decisions.md D6, D7). -/
def decodeFamily0 (w : Word) : Instr :=
  if fieldNN w = 0xE0#8 then .cls
  else if fieldNN w = 0xEE#8 then .ret
  else .sys (fieldNNN w)

/-- Family 0x8 selects on its low nibble (30_encoding.md R85). -/
def decodeFamily8 (w : Word) : Except DecodeError Instr :=
  match fieldN w with
  | 0x0#4 => .ok (.ldReg (fieldX w) (fieldY w))
  | 0x1#4 => .ok (.orReg (fieldX w) (fieldY w))
  | 0x2#4 => .ok (.andReg (fieldX w) (fieldY w))
  | 0x3#4 => .ok (.xorReg (fieldX w) (fieldY w))
  | 0x4#4 => .ok (.addReg (fieldX w) (fieldY w))
  | 0x5#4 => .ok (.sub (fieldX w) (fieldY w))
  | 0x6#4 => .ok (.shr (fieldX w) (fieldY w))
  | 0x7#4 => .ok (.subn (fieldX w) (fieldY w))
  | 0xE#4 => .ok (.shl (fieldX w) (fieldY w))
  | other => .error (.unknownAluOp other)

/-- Family 0xE selects on its low byte (30_encoding.md R85). -/
def decodeFamilyE (w : Word) : Except DecodeError Instr :=
  match fieldNN w with
  | 0x9E#8 => .ok (.skp (fieldX w))
  | 0xA1#8 => .ok (.sknp (fieldX w))
  | other => .error (.unknownKeyOp other)

/-- Family 0xF selects on its low byte (30_encoding.md R85). -/
def decodeFamilyF (w : Word) : Except DecodeError Instr :=
  match fieldNN w with
  | 0x07#8 => .ok (.ldVxDt (fieldX w))
  | 0x0A#8 => .ok (.ldK (fieldX w))
  | 0x15#8 => .ok (.ldDt (fieldX w))
  | 0x18#8 => .ok (.ldSt (fieldX w))
  | 0x1E#8 => .ok (.addI (fieldX w))
  | 0x29#8 => .ok (.ldF (fieldX w))
  | 0x33#8 => .ok (.ldB (fieldX w))
  | 0x55#8 => .ok (.ldStore (fieldX w))
  | 0x65#8 => .ok (.ldLoad (fieldX w))
  | other => .error (.unknownMiscOp other)

/-- The two-level dispatch of 30_encoding.md R85, total on the 65536 words. Families 0x5 and 0x9 do not look at the
low nibble (92_eei_decisions.md D5). -/
def decodeWord (w : Word) : Except DecodeError Instr :=
  match fieldF w with
  | 0x0#4 => .ok (decodeFamily0 w)
  | 0x1#4 => .ok (.jp (fieldNNN w))
  | 0x2#4 => .ok (.call (fieldNNN w))
  | 0x3#4 => .ok (.seImm (fieldX w) (fieldNN w))
  | 0x4#4 => .ok (.sneImm (fieldX w) (fieldNN w))
  | 0x5#4 => .ok (.seReg (fieldX w) (fieldY w))
  | 0x6#4 => .ok (.ldImm (fieldX w) (fieldNN w))
  | 0x7#4 => .ok (.addImm (fieldX w) (fieldNN w))
  | 0x8#4 => decodeFamily8 w
  | 0x9#4 => .ok (.sneReg (fieldX w) (fieldY w))
  | 0xA#4 => .ok (.ldI (fieldNNN w))
  | 0xB#4 => .ok (.jpV0 (fieldNNN w))
  | 0xC#4 => .ok (.rnd (fieldX w) (fieldNN w))
  | 0xD#4 => .ok (.drw (fieldX w) (fieldY w) (fieldN w).toFin)
  | 0xE#4 => decodeFamilyE w
  | _ => decodeFamilyF w -- 0xF, the last of the sixteen families

/-- Decoding of the bytes as they stand in memory: the instruction and the bytes after it. -/
def decodeBytes : List Byte → Except DecodeError (Instr × List Byte)
  | first :: second :: rest =>
    match decodeWord (wordOfBytes first second) with
    | .ok i => .ok (i, rest)
    | .error e => .error e
  | [_] => .error .truncated
  | [] => .error .truncated

/-- The bytes, as memory holds them, of an instruction whose `nbits` bits are `w` (bit 0 the word's least significant
bit; the bits above `nbits` are 0). The one word of an instruction is stored big-endian (20_memory.md R65). -/
def tableBytes (nbits w : Nat) : List Byte :=
  let word : Word := BitVec.ofNat 16 (w % 2 ^ nbits)
  [firstByte word, secondByte word]

/-- The instruction this decoder reads from the bits `w` of an opcode-table row of `nbits` bits. -/
def decodeTableWord (nbits w : Nat) : Option Instr :=
  match decodeBytes (tableBytes nbits w) with
  | .ok (i, _) => some i
  | .error _ => none

/-! ### The encoder, from the same map (30_encoding.md R81, R84) -/

/-- The bits of a register number or count. -/
def nibble (k : Fin 16) : BitVec 4 := BitVec.ofFin k

/-- A word of the form F nnn. -/
def packNNN (f : BitVec 4) (nnn : Addr12) : Word := f ++ nnn

/-- A word of the form F x nn. -/
def packXNN (f : BitVec 4) (x : Reg) (nn : Byte) : Word := f ++ (nibble x ++ nn)

/-- A word of the form F x y n. -/
def packXYN (f : BitVec 4) (x y : Reg) (n : BitVec 4) : Word := f ++ (nibble x ++ (nibble y ++ n))

/-- The word of an instruction: the pattern of 30_encoding.md R84 with the operands in their fields. The bits a
pattern does not name (5XY0, 9XY0, 00E0, 00EE) are 0, as the standard map writes them. -/
def encode : Instr → Word
  | .sys nnn => packNNN 0x0#4 nnn
  | .cls => 0x00E0#16
  | .ret => 0x00EE#16
  | .jp nnn => packNNN 0x1#4 nnn
  | .call nnn => packNNN 0x2#4 nnn
  | .seImm x nn => packXNN 0x3#4 x nn
  | .sneImm x nn => packXNN 0x4#4 x nn
  | .seReg x y => packXYN 0x5#4 x y 0x0#4
  | .ldImm x nn => packXNN 0x6#4 x nn
  | .addImm x nn => packXNN 0x7#4 x nn
  | .ldReg x y => packXYN 0x8#4 x y 0x0#4
  | .orReg x y => packXYN 0x8#4 x y 0x1#4
  | .andReg x y => packXYN 0x8#4 x y 0x2#4
  | .xorReg x y => packXYN 0x8#4 x y 0x3#4
  | .addReg x y => packXYN 0x8#4 x y 0x4#4
  | .sub x y => packXYN 0x8#4 x y 0x5#4
  | .shr x y => packXYN 0x8#4 x y 0x6#4
  | .subn x y => packXYN 0x8#4 x y 0x7#4
  | .shl x y => packXYN 0x8#4 x y 0xE#4
  | .sneReg x y => packXYN 0x9#4 x y 0x0#4
  | .ldI nnn => packNNN 0xA#4 nnn
  | .jpV0 nnn => packNNN 0xB#4 nnn
  | .rnd x nn => packXNN 0xC#4 x nn
  | .drw x y n => packXYN 0xD#4 x y (nibble n)
  | .skp x => packXNN 0xE#4 x 0x9E#8
  | .sknp x => packXNN 0xE#4 x 0xA1#8
  | .ldVxDt x => packXNN 0xF#4 x 0x07#8
  | .ldK x => packXNN 0xF#4 x 0x0A#8
  | .ldDt x => packXNN 0xF#4 x 0x15#8
  | .ldSt x => packXNN 0xF#4 x 0x18#8
  | .addI x => packXNN 0xF#4 x 0x1E#8
  | .ldF x => packXNN 0xF#4 x 0x29#8
  | .ldB x => packXNN 0xF#4 x 0x33#8
  | .ldStore x => packXNN 0xF#4 x 0x55#8
  | .ldLoad x => packXNN 0xF#4 x 0x65#8

/-- The bits of the word that an instruction's decoding looks at or takes an operand from: all of them, but for
bits 3..0 of 5XYn and 9XYn and bits 11..8 of 0XE0 and 0XEE (30_encoding.md R85, 92_eei_decisions.md D5, D6). -/
def Instr.namedBits : Instr → Word
  | .seReg _ _ | .sneReg _ _ => 0xFFF0#16
  | .cls | .ret => 0xF0FF#16
  | .sys _ | .jp _ | .call _ | .seImm _ _ | .sneImm _ _ | .ldImm _ _ | .addImm _ _ | .ldReg _ _ | .orReg _ _
  | .andReg _ _ | .xorReg _ _ | .addReg _ _ | .sub _ _ | .shr _ _ | .subn _ _ | .shl _ _ | .ldI _ | .jpV0 _
  | .rnd _ _ | .drw _ _ _ | .skp _ | .sknp _ | .ldVxDt _ | .ldK _ | .ldDt _ | .ldSt _ | .addI _ | .ldF _
  | .ldB _ | .ldStore _ | .ldLoad _ => 0xFFFF#16

/-- The two bytes of an instruction, as memory holds them. -/
def encodeBytes (i : Instr) : List Byte := [firstByte (encode i), secondByte (encode i)]

end Sys2Proof
end

