-- ==== Sys2Proof/Machine/State.lean ====
section
/-!
DEFINITION. The machine's state as plain data (10_state.md R20), the conditions and statuses of 60_exceptions.md R240,
who chooses the next operation (70_reset_and_hazards.md R285), and the state at session creation (10_state.md R41).
-/
namespace Sys2Proof.Machine

/-- The memory of 4096 bytes (10_state.md R37), as the canonical list of the bytes that differ from what an unlisted
address reads as: see `Memory.wf` and `Memory.initialByte`. -/
abbrev Memory := List Host.Cell

/-- The display buffer: 32 rows of 64 one-bit cells, row 0 at the top (10_state.md R34, R35). -/
abbrev Display := Vector (Vector Bool 64) 32

/-- What an out-of-bounds access was (60_exceptions.md R240, code 5). -/
inductive AccessKind
  | fetch
  | read
  | write
  | key
  deriving DecidableEq, Repr

/-- A fatal condition with the info that 60_exceptions.md R240 records. -/
inductive Fatal
  /-- CALL with SP = 16; `addr` is P (60_exceptions.md R242). -/
  | stackOverflow (addr : Word)
  /-- RET with SP = 0; `addr` is P (60_exceptions.md R243). -/
  | stackUnderflow (addr : Word)
  /-- An access outside its array: the offending address or key index `target`, an unbounded number, and the address
  P of the instruction (60_exceptions.md R244). -/
  | outOfBounds (kind : AccessKind) (target : Nat) (addr : Word)
  deriving DecidableEq, Repr

/-- The status of one `executeOne()` (60_exceptions.md R240, R246). -/
inductive Status
  | ok
  | keyWait
  | unknownOpcode (word addr : Word)
  | fatal (c : Fatal)
  deriving DecidableEq, Repr

/-- The status codes (60_exceptions.md R240). -/
def Status.code : Status → Nat
  | .ok => 0
  | .keyWait => 1
  | .unknownOpcode _ _ => 2
  | .fatal (.stackOverflow _) => 3
  | .fatal (.stackUnderflow _) => 4
  | .fatal (.outOfBounds _ _ _) => 5

/-- One report on the diagnostic channel: the status with its info and P (60_exceptions.md R268). Only UnknownOpcode
and a fatal condition give one. -/
inductive Report
  | unknownOpcode (word addr : Word)
  | fatal (c : Fatal)
  deriving DecidableEq, Repr

/-- What an operation of 10_state.md R43 gives its caller. -/
inductive Result
  /-- No operation has been called in this session. -/
  | idle
  /-- The status of `executeOne()`, or the halted condition that `tick()` returns (60_exceptions.md R245, R254). -/
  | status (st : Status)
  /-- The cue of `tick()` (60_exceptions.md R254, R255). -/
  | cue (b : Bool)
  /-- The 2048 cells of `readDisplay()` in flat order (60_exceptions.md R265). -/
  | display (cells : List Bool)
  /-- Whether `loadProgram` took the image (60_exceptions.md R262). -/
  | loaded (accepted : Bool)
  /-- An operation without a result (10_state.md R43 "none"). -/
  | done
  deriving DecidableEq, Repr

/-- The outputs of the last operation: its result, and the report it emitted on the diagnostic channel. The model's
own field (notes/assumptions/4.md): the spec returns them to the caller and stores neither. -/
structure Output where
  result : Result
  report : Option Report
  deriving DecidableEq, Repr

/-- The output of an instruction that completes: status OK and no report (60_exceptions.md R240). -/
def Output.ok : Output := { result := .status .ok, report := none }

/-- Who chooses the operation that comes where none is listed: the driver that calls `executeOne()` each time, or a
driver of whom nothing is known, whose `k`-th choice is the free value `Config.nextOperation k` (70_reset_and_hazards.md R285,
60_exceptions.md R256; notes/assumptions/3.md). -/
inductive Driver
  | calls
  | free (k : Nat)
  deriving DecidableEq, Repr

/-- The state record (10_state.md R20), then the model's own fields (INVENTORY.md, State). -/
structure State where
  /-- `mem`, 4096 bytes (10_state.md R37). -/
  mem : Memory
  /-- `V0`..`VF` (10_state.md R21, R22). -/
  v : Vector Byte 16
  /-- `I` (10_state.md R25). -/
  i : Word
  /-- `PC` (10_state.md R26). -/
  pc : Word
  /-- `stack` (10_state.md R30). -/
  stack : Vector Word 16
  /-- `SP`, 8 bits, legal values 0..16 (10_state.md R31). -/
  sp : Byte
  /-- `DT`, the delay timer (10_state.md R32). -/
  dt : Byte
  /-- `ST`, the sound timer (10_state.md R33). -/
  st : Byte
  /-- `disp` (10_state.md R34). -/
  disp : Display
  /-- `key` (10_state.md R36). -/
  key : Vector Bool 16
  /-- `halted` (10_state.md R38). -/
  halted : Option Fatal
  /-- MODEL'S OWN: the parameters of 00_scope.md R9, an argument that no step writes (notes/assumptions/1.md). -/
  params : Params
  /-- MODEL'S OWN: how many random bytes were drawn, the index of the next free value (notes/assumptions/2.md). -/
  draws : Nat
  /-- MODEL'S OWN: the operations that come next, oldest first, `executeOne()` among them (notes/assumptions/3.md). -/
  pending : List Operation
  /-- MODEL'S OWN: who chooses the next operation where `pending` lists none (notes/assumptions/3.md). -/
  driver : Driver
  /-- MODEL'S OWN: what the last operation gave its caller (notes/assumptions/4.md). -/
  out : Output
  deriving DecidableEq, Repr

/-- Why a step stops. Every condition the spec describes is a next state with `halted` set, so one reason is left, in
states the spec rules out. -/
inductive Fault
  /-- Raised by CALL and RET where SP is above 16, which 10_state.md R31 says never is: `stack[SP]` does not exist
  there and the spec gives no effect. SAFE: the model stops, and no state reached from a legal one has it
  (notes/assumptions/7.md). -/
  | illegalStackPointer
  deriving DecidableEq, Repr

/-- Why an instruction has no meaning. -/
inductive Refusal
  /-- Raised by `exec` alone, for an instruction that has no meaning yet. SAFE: nothing can be proved of its effect.
  Every instruction of this model has its meaning, so no arm raises it. -/
  | notModelled (mnemonic : String)
  deriving DecidableEq, Repr

/-- The answer of a meaning or of a step. -/
abbrev StepResult := Host.Outcome State Fault Refusal

/-- The machine right after session creation with the default parameters, the conventional font and an empty program
image (10_state.md R41, 70_reset_and_hazards.md R282 to R284). Memory lists nothing: it holds the font and zeros. -/
def State.reset : State :=
  { mem := []
    v := Vector.replicate 16 0#8
    i := 0#16
    pc := 0x200#16
    stack := Vector.replicate 16 0#16
    sp := 0#8
    dt := 0#8
    st := 0#8
    disp := Vector.replicate 32 (Vector.replicate 64 false)
    key := Vector.replicate 16 false
    halted := none
    params := Params.default
    draws := 0
    pending := []
    driver := .calls
    out := { result := .idle, report := none } }

end Sys2Proof.Machine
end

