-- ==== Sys2Proof/Machine/Memory.lean ====
section
/-!
DEFINITION. The 4096-byte memory (20_memory.md R60 to R76): what it holds at session creation, its canonical form, the
one-byte read and write, and the byte sequences the instructions and loaders build from them.
-/
namespace Sys2Proof.Machine

/-- The last address, 0xFFF (20_memory.md R60). -/
def lastAddress : Nat := 0xFFF

/-- The conventional font, glyphs 0 to 7 (20_memory.md R66; PRESUMED, notes/assumptions/5.md). -/
def fontLow : List Byte :=
  [0xF0, 0x90, 0x90, 0x90, 0xF0] ++ [0x20, 0x60, 0x20, 0x20, 0x70] ++
  [0xF0, 0x10, 0xF0, 0x80, 0xF0] ++ [0xF0, 0x10, 0xF0, 0x10, 0xF0] ++
  [0x90, 0x90, 0xF0, 0x10, 0x10] ++ [0xF0, 0x80, 0xF0, 0x10, 0xF0] ++
  [0xF0, 0x80, 0xF0, 0x90, 0xF0] ++ [0xF0, 0x10, 0x20, 0x40, 0x40]

/-- The conventional font, glyphs 8 to F (20_memory.md R66; PRESUMED, notes/assumptions/5.md). -/
def fontHigh : List Byte :=
  [0xF0, 0x90, 0xF0, 0x90, 0xF0] ++ [0xF0, 0x90, 0xF0, 0x10, 0xF0] ++
  [0xF0, 0x90, 0xF0, 0x90, 0x90] ++ [0xE0, 0x90, 0xE0, 0x90, 0xE0] ++
  [0xF0, 0x80, 0x80, 0x80, 0xF0] ++ [0xE0, 0x90, 0x90, 0x90, 0xE0] ++
  [0xF0, 0x80, 0xF0, 0x80, 0xF0] ++ [0xF0, 0x80, 0xF0, 0x80, 0x80]

/-- The default FONT_BYTES (20_memory.md R66). -/
def conventionalFont : Vector Byte 80 := ⟨(fontLow ++ fontHigh).toArray, rfl⟩

/-- What an address that memory does not list reads as: the contents at session creation, the font at 0x000..0x04F
and zero above (10_state.md R41). -/
def initialByte (a : Nat) : Byte :=
  if h : a < 80 then conventionalFont.get ⟨a, h⟩ else 0

/-- The canonical form: addresses strictly rising, each inside the address space, and no entry equal to what the
unlisted address reads as. -/
abbrev Memory.wf (m : Memory) : Prop :=
  (m.map Prod.fst).Pairwise (· < ·) ∧ ∀ c ∈ m, c.1 ≤ lastAddress ∧ c.2 ≠ initialByte c.1

/-- The byte at an address (20_memory.md R62, after its bounds check). -/
def Memory.read : Memory → Nat → Byte
  | [], a => initialByte a
  | c :: rest, a => if c.1 = a then c.2 else Memory.read rest a

/-- Put an entry before the first one with a higher address. -/
def insertCell (c : Host.Cell) : Memory → Memory
  | [] => [c]
  | d :: rest => if c.1 < d.1 then c :: d :: rest else d :: insertCell c rest

/-- The memory without an entry for an address. -/
def Memory.erase (m : Memory) (a : Nat) : Memory := m.filter fun c => c.1 != a

/-- Write one byte (20_memory.md R63, after its bounds check). The form stays canonical. -/
def Memory.write (m : Memory) (a : Nat) (b : Byte) : Memory :=
  if b = initialByte a then m.erase a else insertCell (a, b) (m.erase a)

/-- Write bytes at rising addresses, the first at `a` (42_index_memory.md R173, R174; 60_exceptions.md R262, R263). -/
def Memory.writeBytes : Memory → Nat → List Byte → Memory
  | m, _, [] => m
  | m, a, b :: rest => Memory.writeBytes (m.write a b) (a + 1) rest

/-- Read `n` bytes at rising addresses, the first at `a` (42_index_memory.md R175, 43_display.md R201). -/
def Memory.readBytes (m : Memory) (a n : Nat) : List Byte :=
  (List.range n).map fun k => m.read (a + k)

/-- The longest program image that fits from 0x200: 3584 bytes (60_exceptions.md R262). -/
def maxImage : Nat := 3584

/-- Where programs are loaded (20_memory.md R61, 60_exceptions.md R262). -/
def loadAddress : Nat := 0x200

/-- The memory after `loadFont(font)` (60_exceptions.md R263). -/
def Memory.withFont (m : Memory) (font : Vector Byte 80) : Memory := m.writeBytes 0 font.toList

/-- The memory after `loadProgram(image)`, or none where the image is rejected (60_exceptions.md R262). -/
def Memory.withImage (m : Memory) (policy : LoaderOversize) (image : List Byte) : Option Memory :=
  if image.length ≤ maxImage then some (m.writeBytes loadAddress image)
  else
    match policy with
    | .truncate => some (m.writeBytes loadAddress (image.take maxImage))
    | .reject => none

end Sys2Proof.Machine
end

