-- ==== Sys2Proof/Machine/Ops.lean ====
section
/-!
DEFINITION. The named operations over the state that the meanings share: reading and writing registers, the fetch
advance and the skip, the stack, the checked memory range, the completion of an instruction, and raising a condition
(60_exceptions.md R240 to R248). The core has no trap entry and no return from one (60_exceptions.md R248, R249):
`State.raiseFatal` and `State.raiseUnknown` are all there is to taking a condition, and an execution goes on after
UnknownOpcode by the next fetch.
-/
namespace Sys2Proof.Machine

/-! ### Registers -/

/-- `V[x]` (00_scope.md R11). -/
def State.reg (s : State) (x : Reg) : Byte := s.v.get x

/-- `V[x] <- b` (00_scope.md R11). -/
def State.setReg (s : State) (x : Reg) (b : Byte) : State := { s with v := s.v.set x.val b x.isLt }

/-- `I <- w` (00_scope.md R11). -/
def State.setI (s : State) (w : Word) : State := { s with i := w }

/-- `PC <- w` (00_scope.md R11). -/
def State.setPc (s : State) (w : Word) : State := { s with pc := w }

/-- `DT <- b` (00_scope.md R11). -/
def State.setDt (s : State) (b : Byte) : State := { s with dt := b }

/-- `ST <- b` (00_scope.md R11). -/
def State.setSt (s : State) (b : Byte) : State := { s with st := b }

/-- Replace the memory. -/
def State.setMem (s : State) (m : Memory) : State := { s with mem := m }

/-- Replace the display buffer. -/
def State.setDisp (s : State) (d : Display) : State := { s with disp := d }

/-- Set what the operation gives its caller. -/
def State.setOut (s : State) (o : Output) : State := { s with out := o }

/-- Replace all general registers. -/
def State.setV (s : State) (v : Vector Byte 16) : State := { s with v := v }

/-- Count one draw of the random source (60_exceptions.md R267). -/
def State.countDraw (s : State) : State := { s with draws := s.draws + 1 }

/-- Write the flag: `VF <- 1` or `VF <- 0`, on every execution (10_state.md R22). -/
def State.setFlag (s : State) (f : Bool) : State := s.setReg regF (if f then 1#8 else 0#8)

/-! ### Program counter and stack -/

/-- The size of an instruction, 2 bytes (30_encoding.md R81). -/
def instrSize : Word := 2#16

/-- The fetch advance: `PC <- (PC + 2) mod 2^16` (30_encoding.md R80, 10_state.md R28). -/
def State.advance (s : State) : State := s.setPc (s.pc + instrSize)

/-- `P`, the address of the fetched word, while an instruction executes: PC holds P + 2 (10_state.md R26). -/
def State.instrAddr (s : State) : Word := s.pc - instrSize

/-- Advance PC by an additional 2 where the condition holds (00_scope.md R15 "Skip", 40_control_flow.md R104). -/
def State.skipIf (s : State) (c : Bool) : State := if c then s.setPc (s.pc + instrSize) else s

/-- `stack[k] <- PC; SP <- SP + 1` (40_control_flow.md R103). -/
def State.pushPc (s : State) (k : Fin 16) : State :=
  { s with stack := s.stack.set k.val s.pc k.isLt, sp := s.sp + 1#8 }

/-- `SP <- k; PC <- stack[k]`, with `k` the decremented SP (40_control_flow.md R101). -/
def State.popPc (s : State) (k : Fin 16) : State :=
  { s with sp := BitVec.ofNat 8 k.val, pc := s.stack.get k }

/-! ### Completion and conditions -/

/-- The instruction completes: status OK, no report (30_encoding.md R80 "return OK", 60_exceptions.md R240). -/
def State.complete (s : State) : StepResult := .next (s.setOut Output.ok)

/-- The key wait: status KEY_WAIT, no report (44_input_timers.md R222, 60_exceptions.md R240). -/
def State.keyWait (s : State) : StepResult := .next (s.setOut { result := .status .keyWait, report := none })

/-- The state with a fatal condition raised in it (60_exceptions.md R245): none of the instruction's own writes is
made, `halted` records the condition with its info, the report is emitted and the status returned; PC is left as it is
(P + 2 after the fetch advance, P for a fetch). -/
def State.recordFatal (s : State) (c : Fatal) : State :=
  { s with halted := some c, out := { result := .status (.fatal c), report := some (.fatal c) } }

/-- Raise a fatal condition (60_exceptions.md R242 to R245). -/
def State.raiseFatal (s : State) (c : Fatal) : StepResult := .next (s.recordFatal c)

/-- Raise UnknownOpcode (60_exceptions.md R241): no effect but the report and the status; PC keeps the fetch advance. -/
def State.raiseUnknown (s : State) (word : Word) : StepResult :=
  .next (s.setOut { result := .status (.unknownOpcode word s.instrAddr)
                    report := some (.unknownOpcode word s.instrAddr) })

/-- What `executeOne()` does in a halted session: nothing changes, and the recorded condition is returned
(60_exceptions.md R245). It is raised no second time, so no report is emitted. -/
def State.stayHalted (s : State) (c : Fatal) : State :=
  s.setOut { result := .status (.fatal c), report := none }

/-- The check of an access to `count` bytes from `base`, made before any write (20_memory.md R62, R63, R70): where the
last address passes 0xFFF, OutOfBoundsAccess with the lowest address of the access above 0xFFF (42_index_memory.md,
92_eei_decisions.md D16); else the access `k` goes on. No byte, no check (43_display.md R201 with n = 0). -/
def State.withRange (s : State) (kind : AccessKind) (base count : Nat) (k : State → StepResult) : StepResult :=
  if 0 < count ∧ lastAddress < base + count - 1 then
    s.raiseFatal (.outOfBounds kind (max base (lastAddress + 1)) s.instrAddr)
  else k s

/-- The key that `V[x]` names, or OutOfBoundsAccess of kind key where it is above 0xF (44_input_timers.md R220). -/
def State.withKey (s : State) (x : Reg) (k : KeyIx → StepResult) : StepResult :=
  if h : (s.reg x).toNat < 16 then k ⟨(s.reg x).toNat, h⟩
  else s.raiseFatal (.outOfBounds .key (s.reg x).toNat s.instrAddr)

/-- Whether a key is down (10_state.md R36). -/
def State.keyDown (s : State) (k : KeyIx) : Bool := s.key.get k

/-- The lowest key that is down, by an ascending scan (44_input_timers.md R222). -/
def State.firstKey (s : State) : Option KeyIx := (List.finRange 16).find? fun k => s.keyDown k

/-! ### The fetch -/

/-- `Fetch(PC)`: the big-endian word at PC, or none where PC + 1 passes 0xFFF (20_memory.md R64). -/
def State.fetch (s : State) : Option Word :=
  if lastAddress < s.pc.toNat + 1 then none
  else some (wordOfBytes (s.mem.read s.pc.toNat) (s.mem.read (s.pc.toNat + 1)))

end Sys2Proof.Machine
end

