-- ==== Sys2Proof/Machine/Operands.lean ====
section
/-!
DEFINITION. The operand forms and the values instructions compute from them, apart from flags: zero-extended
immediates (30_encoding.md R83), the shift source (41_alu.md R139, R141), decimal digits (42_index_memory.md R173),
glyph addresses (R172), register runs (R174, R175), sprite bits and their wrapped coordinates (43_display.md R201).
-/
namespace Sys2Proof.Machine

/-- `zext_16(nnn)` (30_encoding.md R83). -/
def zextAddr (nnn : Addr12) : Word := nnn.setWidth 16

/-- `zext_16(V[x])` (00_scope.md R11). -/
def zextByte (b : Byte) : Word := b.setWidth 16

/-- `src <- (SHIFT_QUIRK = VX) ? a : b` (41_alu.md R139, R141). -/
def shiftSource (q : ShiftQuirk) (a b : Byte) : Byte :=
  match q with
  | .vx => a
  | .vy => b

/-- The decimal digits of a byte: hundreds, tens, ones (42_index_memory.md R173). -/
def bcdDigits (b : Byte) : List Byte :=
  [BitVec.ofNat 8 (b.toNat / 100), BitVec.ofNat 8 (b.toNat / 10 % 10), BitVec.ofNat 8 (b.toNat % 10)]

/-- `zext_16(V[x]) * 5`, the address of a glyph; the byte is not masked (42_index_memory.md R172). -/
def glyphAddress (b : Byte) : Word := zextByte b * 5#16

/-- `V[0]..V[x]` in ascending order (42_index_memory.md R174). -/
def State.regRun (s : State) (x : Reg) : List Byte := s.v.toList.take (x.val + 1)

/-- The registers after `V[i] <- mem[I + i]` for i in 0..x, the others as they were (42_index_memory.md R175). -/
def State.loadedRegs (s : State) (x : Reg) : Vector Byte 16 :=
  Vector.ofFn fun r => if r.val ≤ x.val then s.mem.read (s.i.toNat + r.val) else s.reg r

/-- The sprite bit of a column: bit 7 is column 0 (43_display.md R201, 92_eei_decisions.md D15). -/
def spriteBit (b : Byte) (col : Nat) : Bool := b.getLsbD (7 - col)

/-- The wrapped column of a pixel, `(xs + col) mod 64` (43_display.md R201, R205). -/
def wrapX (xs : Byte) (col : Nat) : Fin 64 := Fin.ofNat 64 (xs.toNat + col)

/-- The wrapped row of a pixel, `(ys + row) mod 32` (43_display.md R201, R205). -/
def wrapY (ys : Byte) (row : Nat) : Fin 32 := Fin.ofNat 32 (ys.toNat + row)

end Sys2Proof.Machine
end

