-- ==== Sys2Proof/Machine/Flags.lean ====
section
/-!
DEFINITION. The flag computations (10_state.md R22, 41_alu.md R132 to R141), each from the operand values before
truncation, and the order in which a result and a flag are written.
-/
namespace Sys2Proof.Machine

/-- Carry of an addition: the 9-bit sum is above 255 (41_alu.md R137). -/
def carryOut (a b : Byte) : Bool := decide (255 < a.toNat + b.toNat)

/-- No borrow of `a - b`: `a >= b`, equality included (41_alu.md R138, R140; 92_eei_decisions.md D10). -/
def noBorrow (a b : Byte) : Bool := decide (b.toNat ≤ a.toNat)

/-- The bit a right shift by one shifts out, bit 0 (41_alu.md R139). -/
def lowBit (b : Byte) : Bool := b.getLsbD 0

/-- The bit a left shift by one shifts out, bit 7 (41_alu.md R141). -/
def highBit (b : Byte) : Bool := b.getLsbD 7

/-- Write the result to `V[x]` first and the flag to `VF` last, so that with x = F the flag stays (41_alu.md R132,
00_scope.md R12, 92_eei_decisions.md D13). -/
def State.writeResultFlag (s : State) (x : Reg) (result : Byte) (flag : Bool) : State :=
  (s.setReg x result).setFlag flag

/-- Write the result of OR, AND or XOR to `V[x]`, and clear VF after it where LOGIC_VF_QUIRK = RESET
(41_alu.md R134 to R136, 92_eei_decisions.md D12). -/
def State.writeLogic (s : State) (x : Reg) (result : Byte) : State :=
  match s.params.logicVfQuirk with
  | .unchanged => s.setReg x result
  | .reset => (s.setReg x result).setFlag false

end Sys2Proof.Machine
end

