-- ==== Sys2Proof/Machine/Alu.lean ====
section
/-!
DEFINITION. The meanings of 41_alu.md: immediates, the two-register operations of family 0x8, and RND.
-/
namespace Sys2Proof.Machine

/-- LD Vx, nn (41_alu.md R130). -/
def execLdImm (x : Reg) (nn : Byte) (s : State) : StepResult := (s.setReg x nn).complete

/-- ADD Vx, nn: wraps, no carry flag (41_alu.md R131). -/
def execAddImm (x : Reg) (nn : Byte) (s : State) : StepResult := (s.setReg x (s.reg x + nn)).complete

/-- LD Vx, Vy: VF is not written as a flag (41_alu.md R133). -/
def execLdReg (x y : Reg) (s : State) : StepResult := (s.setReg x (s.reg y)).complete

/-- OR Vx, Vy (41_alu.md R134). -/
def execOrReg (x y : Reg) (s : State) : StepResult := (s.writeLogic x (s.reg x ||| s.reg y)).complete

/-- AND Vx, Vy (41_alu.md R135). -/
def execAndReg (x y : Reg) (s : State) : StepResult := (s.writeLogic x (s.reg x &&& s.reg y)).complete

/-- XOR Vx, Vy (41_alu.md R136). -/
def execXorReg (x y : Reg) (s : State) : StepResult := (s.writeLogic x (s.reg x ^^^ s.reg y)).complete

/-- ADD Vx, Vy: VF is the carry (41_alu.md R137). -/
def execAddReg (x y : Reg) (s : State) : StepResult :=
  (s.writeResultFlag x (s.reg x + s.reg y) (carryOut (s.reg x) (s.reg y))).complete

/-- SUB Vx, Vy: `Vx - Vy`, VF = 1 where there is no borrow (41_alu.md R138). -/
def execSub (x y : Reg) (s : State) : StepResult :=
  (s.writeResultFlag x (s.reg x - s.reg y) (noBorrow (s.reg x) (s.reg y))).complete

/-- SHR Vx: the source shifted right by one, VF the bit shifted out (41_alu.md R139). -/
def execShr (x y : Reg) (s : State) : StepResult :=
  let src := shiftSource s.params.shiftQuirk (s.reg x) (s.reg y)
  (s.writeResultFlag x (src >>> 1) (lowBit src)).complete

/-- SUBN Vx, Vy: `Vy - Vx`, VF = 1 where there is no borrow (41_alu.md R140). -/
def execSubn (x y : Reg) (s : State) : StepResult :=
  (s.writeResultFlag x (s.reg y - s.reg x) (noBorrow (s.reg y) (s.reg x))).complete

/-- SHL Vx: the source shifted left by one, VF the bit shifted out (41_alu.md R141). -/
def execShl (x y : Reg) (s : State) : StepResult :=
  let src := shiftSource s.params.shiftQuirk (s.reg x) (s.reg y)
  (s.writeResultFlag x (src <<< 1) (highBit src)).complete

/-- RND Vx, nn: the next byte of the random source under the mask `nn` (41_alu.md R142, 60_exceptions.md R267). -/
def execRnd (x : Reg) (nn : Byte) (s : State) : StepResult :=
  (s.countDraw.setReg x (Config.randomByte s.draws &&& nn)).complete

end Sys2Proof.Machine
end

