-- ==== Sys2Proof/Machine/ControlFlow.lean ====
section
/-!
DEFINITION. The meanings of 40_control_flow.md: SYS, RET, JP, CALL, the skips on registers, JP V0. In each, PC holds
P + 2 on entry.
-/
namespace Sys2Proof.Machine

/-- SYS nnn: UnknownOpcode, always (40_control_flow.md R100, 92_eei_decisions.md D7). -/
def execSys (nnn : Addr12) (s : State) : StepResult := s.raiseUnknown (encode (.sys nnn))

/-- RET: StackUnderflow where SP = 0, else `SP <- SP - 1; PC <- stack[SP]` (40_control_flow.md R101). -/
def execRet (s : State) : StepResult :=
  if s.sp = 0#8 then s.raiseFatal (.stackUnderflow s.instrAddr)
  else if h : s.sp.toNat - 1 < 16 then (s.popPc ⟨s.sp.toNat - 1, h⟩).complete
  else .fault .illegalStackPointer

/-- JP nnn: `PC <- zext_16(nnn)` (40_control_flow.md R102). -/
def execJp (nnn : Addr12) (s : State) : StepResult := (s.setPc (zextAddr nnn)).complete

/-- CALL nnn: StackOverflow where SP = 16, else push PC and jump (40_control_flow.md R103). -/
def execCall (nnn : Addr12) (s : State) : StepResult :=
  if s.sp = 16#8 then s.raiseFatal (.stackOverflow s.instrAddr)
  else if h : s.sp.toNat < 16 then ((s.pushPc ⟨s.sp.toNat, h⟩).setPc (zextAddr nnn)).complete
  else .fault .illegalStackPointer

/-- SE Vx, nn (40_control_flow.md R104). -/
def execSeImm (x : Reg) (nn : Byte) (s : State) : StepResult := (s.skipIf (s.reg x == nn)).complete

/-- SNE Vx, nn (40_control_flow.md R105). -/
def execSneImm (x : Reg) (nn : Byte) (s : State) : StepResult := (s.skipIf (s.reg x != nn)).complete

/-- SE Vx, Vy (40_control_flow.md R106). -/
def execSeReg (x y : Reg) (s : State) : StepResult := (s.skipIf (s.reg x == s.reg y)).complete

/-- SNE Vx, Vy (40_control_flow.md R107). -/
def execSneReg (x y : Reg) (s : State) : StepResult := (s.skipIf (s.reg x != s.reg y)).complete

/-- JP V0, nnn: `PC <- (zext_16(nnn) + zext_16(V[0])) mod 2^16` (40_control_flow.md R108). -/
def execJpV0 (nnn : Addr12) (s : State) : StepResult :=
  (s.setPc (zextAddr nnn + zextByte (s.reg 0))).complete

end Sys2Proof.Machine
end

