-- ==== Sys2Proof/Machine/Display.lean ====
section
/-!
DEFINITION. The display buffer controller (43_display.md): CLS and DRW, the drawing loop as the pseudocode of R201
writes it, and the flat form in which the buffer is read out (10_state.md R35).
-/
namespace Sys2Proof.Machine

/-- `disp[py][px]` (00_scope.md R11). -/
def Display.cell (d : Display) (px : Fin 64) (py : Fin 32) : Bool := (d.get py).get px

/-- `disp[py][px] <- b`. -/
def Display.setCell (d : Display) (px : Fin 64) (py : Fin 32) (b : Bool) : Display :=
  d.set py.val ((d.get py).set px.val b px.isLt) py.isLt

/-- Every cell 0. -/
def Display.clear : Display := Vector.replicate 32 (Vector.replicate 64 false)

/-- The buffer and the collision flag while a sprite is drawn. -/
abbrev Drawing := Display × Bool

/-- One set sprite bit: a collision where the cell is set, and the cell toggled (43_display.md R201). -/
def drawPixel (px : Fin 64) (py : Fin 32) (a : Drawing) : Drawing :=
  (Display.setCell a.1 px py (!Display.cell a.1 px py), a.2 || Display.cell a.1 px py)

/-- The columns of one row that are still to be drawn (43_display.md R201, "for col in 0 .. 7"). -/
def drawColumns (xs ys : Byte) (row : Nat) (b : Byte) : List Nat → Drawing → Drawing
  | [], a => a
  | col :: rest, a =>
    drawColumns xs ys row b rest (if spriteBit b col then drawPixel (wrapX xs col) (wrapY ys row) a else a)

/-- One row of a sprite, columns 0 to 7 (43_display.md R201). -/
def drawRow (xs ys : Byte) (row : Nat) (b : Byte) (a : Drawing) : Drawing :=
  drawColumns xs ys row b (List.range 8) a

/-- The rows of a sprite that are still to be drawn, the first being row `row` (43_display.md R201, "for row in
0 .. n-1"). -/
def drawRows (xs ys : Byte) : Nat → List Byte → Drawing → Drawing
  | _, [], a => a
  | row, b :: rest, a => drawRows xs ys (row + 1) rest (drawRow xs ys row b a)

/-- The buffer after a sprite is drawn, and whether a set cell was turned off (43_display.md R201). -/
def Display.drawSprite (d : Display) (xs ys : Byte) (rows : List Byte) : Drawing :=
  drawRows xs ys 0 rows (d, false)

/-- The 2048 cells in flat order: cell (px, py) at `py * 64 + px` (10_state.md R35). -/
def Display.flat (d : Display) : List Bool :=
  (List.range 2048).map fun k => Display.cell d (Fin.ofNat 64 k) (Fin.ofNat 32 (k / 64))

/-- CLS (43_display.md R200). -/
def execCls (s : State) : StepResult := (s.setDisp Display.clear).complete

/-- DRW Vx, Vy, n: the coordinates are read before VF is written; the rows are checked before any write; VF is the
collision flag (43_display.md R201, 92_eei_decisions.md D15). -/
def execDrw (x y : Reg) (n : Fin 16) (s : State) : StepResult :=
  s.withRange .read s.i.toNat n.val fun s =>
    let drawn := Display.drawSprite s.disp (s.reg x) (s.reg y) (s.mem.readBytes s.i.toNat n.val)
    ((s.setDisp drawn.1).setFlag drawn.2).complete

end Sys2Proof.Machine
end

