-- ==== Sys2Proof/Machine/IndexMemory.lean ====
section
/-!
DEFINITION. The meanings of 42_index_memory.md: the index register, the font address, BCD, store and load of registers.
Addresses are unbounded numbers checked against 0xFFF before any write; I is never changed by a transfer.
-/
namespace Sys2Proof.Machine

/-- LD I, nnn (42_index_memory.md R170). -/
def execLdI (nnn : Addr12) (s : State) : StepResult := (s.setI (zextAddr nnn)).complete

/-- ADD I, Vx: wraps modulo 2^16, VF unchanged (42_index_memory.md R171, 92_eei_decisions.md D14). -/
def execAddI (x : Reg) (s : State) : StepResult := (s.setI (s.i + zextByte (s.reg x))).complete

/-- LD F, Vx: `I <- zext_16(V[x]) * 5` (42_index_memory.md R172). -/
def execLdF (x : Reg) (s : State) : StepResult := (s.setI (glyphAddress (s.reg x))).complete

/-- LD B, Vx: the three decimal digits at I, I + 1, I + 2 (42_index_memory.md R173). -/
def execLdB (x : Reg) (s : State) : StepResult :=
  s.withRange .write s.i.toNat 3 fun s =>
    (s.setMem (s.mem.writeBytes s.i.toNat (bcdDigits (s.reg x)))).complete

/-- LD [I], Vx: V0..Vx at I + 0 .. I + x (42_index_memory.md R174). -/
def execLdStore (x : Reg) (s : State) : StepResult :=
  s.withRange .write s.i.toNat (x.val + 1) fun s =>
    (s.setMem (s.mem.writeBytes s.i.toNat (s.regRun x))).complete

/-- LD Vx, [I]: V0..Vx from I + 0 .. I + x (42_index_memory.md R175). -/
def execLdLoad (x : Reg) (s : State) : StepResult :=
  s.withRange .read s.i.toNat (x.val + 1) fun s => (s.setV (s.loadedRegs x)).complete

end Sys2Proof.Machine
end

