-- ==== Sys2Proof/Machine/InputTimers.lean ====
section
/-!
DEFINITION. The meanings of 44_input_timers.md: the key skips, the key wait, and the timer transfers.
-/
namespace Sys2Proof.Machine

/-- SKP Vx (44_input_timers.md R220). -/
def execSkp (x : Reg) (s : State) : StepResult :=
  s.withKey x fun k => (s.skipIf (s.keyDown k)).complete

/-- SKNP Vx (44_input_timers.md R221). -/
def execSknp (x : Reg) (s : State) : StepResult :=
  s.withKey x fun k => (s.skipIf (!s.keyDown k)).complete

/-- LD Vx, K: the lowest key that is down; where none is, PC goes back to P and the status is KEY_WAIT
(44_input_timers.md R222). -/
def execLdK (x : Reg) (s : State) : StepResult :=
  match s.firstKey with
  | some k => (s.setReg x (BitVec.ofNat 8 k.val)).complete
  | none => (s.setPc (s.pc - instrSize)).keyWait

/-- LD Vx, DT (44_input_timers.md R223). -/
def execLdVxDt (x : Reg) (s : State) : StepResult := (s.setReg x s.dt).complete

/-- LD DT, Vx (44_input_timers.md R224). -/
def execLdDt (x : Reg) (s : State) : StepResult := (s.setDt (s.reg x)).complete

/-- LD ST, Vx: no cue, whatever is written (44_input_timers.md R225). -/
def execLdSt (x : Reg) (s : State) : StepResult := (s.setSt (s.reg x)).complete

end Sys2Proof.Machine
end

