-- ==== Sys2Proof/Machine/HostOps.lean ====
section
/-!
DEFINITION. The operations of 10_state.md R43 other than `executeOne`: `tick`, `setKey`, `readDisplay`, `reset`,
`loadFont`, `loadProgram`; and `create`, which begins a session (70_reset_and_hazards.md R282).
-/
namespace Sys2Proof.Machine

/-- An output with a result and no report. -/
def Output.plain (r : Result) : Output := { result := r, report := none }

/-- A timer after one tick: never below 0 (60_exceptions.md R254). -/
def countDown (t : Byte) : Byte := if t = 0#8 then 0#8 else t - 1#8

/-- `tick()`: nothing but the recorded condition in a halted session; else both timers count down, and the cue is true
exactly where ST goes from 1 to 0 (60_exceptions.md R254, R255). -/
def State.tick (s : State) : State :=
  match s.halted with
  | some c => s.stayHalted c
  | none =>
    ((s.setDt (countDown s.dt)).setSt (countDown s.st)).setOut
      (Output.plain (.cue (decide (0 < s.st.toNat ∧ countDown s.st = 0#8))))

/-- `setKey(k, b)` (60_exceptions.md R264). -/
def State.pressKey (s : State) (k : KeyIx) (b : Bool) : State :=
  { s with key := s.key.set k.val b k.isLt, out := Output.plain .done }

/-- `readDisplay()` (60_exceptions.md R265). -/
def State.readOut (s : State) : State := s.setOut (Output.plain (.display (Display.flat s.disp)))

/-- `reset()`: registers, stack and timers zero, PC = 0x200; memory, display, keys and `halted` unchanged, and no cue
(70_reset_and_hazards.md R280, R281). -/
def State.resetRegisters (s : State) : State :=
  { s with
    v := Vector.replicate 16 0#8
    i := 0#16
    pc := 0x200#16
    stack := Vector.replicate 16 0#16
    sp := 0#8
    dt := 0#8
    st := 0#8
    out := Output.plain .done }

/-- `loadFont(font)` (60_exceptions.md R263). -/
def State.loadFont (s : State) (font : Vector Byte 80) : State :=
  (s.setMem (s.mem.withFont font)).setOut (Output.plain .done)

/-- `loadProgram(image)`: ok or rejected (60_exceptions.md R262). -/
def State.loadProgram (s : State) (image : List Byte) : State :=
  match s.mem.withImage s.params.loaderOversize image with
  | some m => (s.setMem m).setOut (Output.plain (.loaded true))
  | none => s.setOut (Output.plain (.loaded false))

/-- `create(font, image)` under given parameters: a new session, or none where the loader rejects the image, and then
"the session is not run" (70_reset_and_hazards.md R282, R283; 60_exceptions.md R262, R263). Every byte outside the font
and the image is 0. -/
def State.create (params : Params) (font : Vector Byte 80) (image : List Byte) : Option State :=
  match (Memory.withFont [] font).withImage params.loaderOversize image with
  | some m => some { State.reset with mem := m, params := params }
  | none => none

end Sys2Proof.Machine
end

