-- ==== Sys2Proof/Machine/Execute.lean ====
section
/-!
DEFINITION. `executeOne()` (30_encoding.md R80); what each operation of 10_state.md R43 does; and which operation comes
next, the driver's choice (70_reset_and_hazards.md R285, notes/assumptions/3.md).
-/
namespace Sys2Proof.Machine

/-- Decode and execute a fetched word, PC advanced: an unknown word raises UnknownOpcode (30_encoding.md R80, R86). -/
def executeWord (w : Word) (s : State) : StepResult :=
  match decodeWord w with
  | .ok i => exec i s
  | .error _ => s.raiseUnknown w

/-- `executeOne()` (30_encoding.md R80), its tests in the order of 60_exceptions.md R247: halted, fetch bound, decode,
the instruction's own check. A fetch out of bounds leaves PC at P (60_exceptions.md R245). -/
def executeOne (s : State) : StepResult :=
  match s.halted with
  | some c => .next (s.stayHalted c)
  | none =>
    match s.fetch with
    | none => s.raiseFatal (.outOfBounds .fetch s.pc.toNat s.pc)
    | some w => executeWord w s.advance

/-- One operation, an atomic step (10_state.md R43, 70_reset_and_hazards.md R285). -/
def State.perform (s : State) (op : Operation) : StepResult :=
  match op with
  | .executeOne => executeOne s
  | .tick => .next s.tick
  | .setKey k b => .next (s.pressKey k b)
  | .readDisplay => .next s.readOut
  | .reset => .next s.resetRegisters
  | .loadFont font => .next (s.loadFont font)
  | .loadProgram image => .next (s.loadProgram image)

/-- The driver's choice of an operation: a call, or the free value. -/
def Driver.choose : Driver → Operation
  | .calls => .executeOne
  | .free k => Config.nextOperation k

/-- The driver after a choice. -/
def Driver.afterChoice : Driver → Driver
  | .calls => .calls
  | .free k => .free (k + 1)

/-- The operation that comes next: the first of `pending`, or the driver's choice where none is listed. -/
def State.nextOp (s : State) : Operation :=
  match s.pending with
  | op :: _ => op
  | [] => s.driver.choose

/-- The state with its next operation taken from the schedule, and nothing else changed: `pending` without its first, or
the driver after its choice. -/
def State.takeOp (s : State) : State :=
  { s with
    pending := s.pending.tail
    driver := match s.pending with
      | _ :: _ => s.driver
      | [] => s.driver.afterChoice }

/-- The session with the operations that the driver and the host will perform: any list, and any driver after it. -/
def State.driven (s : State) (ops : List Operation) (d : Driver) : State :=
  { s with pending := ops, driver := d }

end Sys2Proof.Machine
end

