-- ==== Sys2Proof/Machine/Step.lean ====
section
/-!
DEFINITION. One step of the machine: the operation that comes next, `executeOne()` or another, in whatever order the
driver chooses (70_reset_and_hazards.md R285); and the placing of one instruction word where the next step fetches it.
-/
namespace Sys2Proof.Machine

/-- One step: operations are taken one at a time (70_reset_and_hazards.md R285, 60_exceptions.md R247;
notes/assumptions/3.md). -/
def step (s : State) : Host.Outcome State Fault Refusal := s.takeOp.perform s.nextOp

/-- The state in which the next step fetches and runs the instruction with the bits `w`: its bytes stand at PC (at
0x200 where PC is past the last address a fetch may start at), the next operation is `executeOne()`, and the session is
not halted. It stands for the host's load of a program (notes/assumptions/8.md). -/
def State.withFetchWord (s : State) (nbits w : Nat) : State :=
  let place : Word := if lastAddress < s.pc.toNat + 1 then 0x200#16 else s.pc
  { s with
    mem := s.mem.writeBytes place.toNat (tableBytes nbits w)
    pc := place
    halted := none
    pending := [.executeOne] }

end Sys2Proof.Machine
end

