-- ==== Sys2Proof/Safety.lean ====
section
/-!
DEFINITION. The terms in which claims speak: the parts of the state and what it is to leave them alone, the two ways
a condition is reported (60_exceptions.md R241, R245), the legal states, and the two ends of a run
(70_reset_and_hazards.md R296).
-/
namespace Sys2Proof.Machine

/-- A part of the state: the fields of 10_state.md R20, and the model's own but for `out`, of which each claim says
what it holds. -/
inductive Part
  | mem
  | v
  | i
  | pc
  | stack
  | sp
  | dt
  | st
  | disp
  | key
  | halted
  | params
  | draws
  | pending
  | driver
  deriving DecidableEq, Repr

/-- The part is the same in both states: every register reads the same, every byte of memory reads the same. -/
def Part.same (p : Part) (s t : State) : Prop :=
  match p with
  | .mem => ∀ a : Nat, t.mem.read a = s.mem.read a
  | .v => ∀ r : Reg, t.reg r = s.reg r
  | .i => t.i = s.i
  | .pc => t.pc = s.pc
  | .stack => ∀ k : Fin 16, t.stack.get k = s.stack.get k
  | .sp => t.sp = s.sp
  | .dt => t.dt = s.dt
  | .st => t.st = s.st
  | .disp => ∀ (px : Fin 64) (py : Fin 32), Display.cell t.disp px py = Display.cell s.disp px py
  | .key => ∀ k : KeyIx, t.keyDown k = s.keyDown k
  | .halted => t.halted = s.halted
  | .params => t.params = s.params
  | .draws => t.draws = s.draws
  | .pending => t.pending = s.pending
  | .driver => t.driver = s.driver

/-- Every part of the state outside the list is as it was. -/
def OthersKept (changed : List Part) (s t : State) : Prop := ∀ p : Part, p ∉ changed → p.same s t

/-- The answer is the state `s` with a fatal condition raised in it: `halted` set to the condition, its status and its
report given, and nothing else changed (60_exceptions.md R245, R268). -/
def RaisesFatal (answer : StepResult) (s : State) (c : Fatal) : Prop :=
  ∃ t, answer = .next t ∧ t.halted = some c ∧
    t.out = { result := .status (.fatal c), report := some (.fatal c) } ∧ OthersKept [.halted] s t

/-- The answer is the state `s` with UnknownOpcode reported for the word at an address, and nothing else changed
(60_exceptions.md R241, R268). -/
def RaisesUnknown (answer : StepResult) (s : State) (word addr : Word) : Prop :=
  ∃ t, answer = .next t ∧
    t.out = { result := .status (.unknownOpcode word addr), report := some (.unknownOpcode word addr) } ∧
    OthersKept [] s t

/-- A set bit of the sprite that DRW Vx, Vy, n draws falls on the cell (px, py): row `row` is the byte at I + row, bit 7
is column 0, and both coordinates wrap (43_display.md R201). -/
def SpriteCovers (s : State) (x y : Reg) (n : Fin 16) (px : Fin 64) (py : Fin 32) : Prop :=
  ∃ row col : Nat, row < n.val ∧ col < 8 ∧
    (s.mem.read (s.i.toNat + row)).getLsbD (7 - col) = true ∧
    px.val = ((s.reg x).toNat + col) % 64 ∧ py.val = ((s.reg y).toNat + row) % 32

/-- SP is a legal value, 0..16 (10_state.md R31). -/
def State.spLegal (s : State) : Prop := s.sp.toNat ≤ 16

/-- PC is one of the values execution reaches, at most 0x10FE (10_state.md R28), and every stack entry one that a CALL
pushes, at most 0x1000 (40_control_flow.md R101). -/
def State.pcReachable (s : State) : Prop :=
  s.pc.toNat ≤ 0x10FE ∧ ∀ k : Fin 16, (s.stack.get k).toNat ≤ 0x1000

/-- The memory is in canonical form. -/
def State.memCanonical (s : State) : Prop := s.mem.wf

/-- A faulted run: `halted` is set, which is never a good end (70_reset_and_hazards.md R296 (b)). -/
def State.faulted (s : State) : Bool := s.halted.isSome

/-- A program that is done: PC = p and the word at p is 1NNN with nnn = p (70_reset_and_hazards.md R296 (a)). -/
def State.atSelfJump (s : State) : Prop :=
  ∃ nnn : Addr12, s.fetch = some (encode (.jp nnn)) ∧ zextAddr nnn = s.pc

end Sys2Proof.Machine
end

