-- ==== Sys2Proof/Certificates/Slice0/Obligations.lean ====
section
/-!
DEFINITION. The statements for the provers. In a statement about `exec`, PC is the value after the fetch advance, so
the instruction's address P is `s.pc - 2#16` (10_state.md R26). `OthersKept L s t` is the frame: every part of the
state outside L, every register, every byte of memory and every cell among them, reads in t as it does in s. The
operation that comes next is `s.nextOp`, and `s.takeOp` is s with it taken from the schedule and nothing else changed:
the schedule in `pending` and `driver` and the results in `out` are the model's form (notes/assumptions/3.md and 4.md).
-/
open Sys2Proof Sys2Proof.Machine

/-! ### Registers and ALU (41_alu.md) -/

/-- R130: LD Vx, nn completes, writes nn to Vx and nothing else. -/
def Obligations.LoadImmediate : Prop :=
  ∀ (x : Reg) (nn : Byte) (s : State), ∃ t, exec (.ldImm x nn) s = .next t ∧ t.out = Output.ok ∧
    OthersKept [.v] s t ∧ ∀ r : Reg, t.reg r = if r = x then nn else s.reg r

/-- R131: ADD Vx, nn completes, adds modulo 256 and writes no flag (VF changes only as x = F). -/
def Obligations.AddImmediateWraps : Prop :=
  ∀ (x : Reg) (nn : Byte) (s : State), ∃ t, exec (.addImm x nn) s = .next t ∧ t.out = Output.ok ∧
    OthersKept [.v] s t ∧ (t.reg x).toNat = ((s.reg x).toNat + nn.toNat) % 256 ∧
    ∀ r : Reg, r ≠ x → t.reg r = s.reg r

/-- From R133: LD Vx, Vy completes and copies; VF is not written as a flag under either quirk (the spec's decision
D12). -/
def Obligations.CopyRegister : Prop :=
  ∀ (x y : Reg) (s : State), ∃ t, exec (.ldReg x y) s = .next t ∧ t.out = Output.ok ∧
    OthersKept [.v] s t ∧ ∀ r : Reg, t.reg r = if r = x then s.reg y else s.reg r

/-- R134, R135, R136: OR, AND, XOR complete and write the bitwise result to Vx; VF ends 0 under RESET, and is no flag
under UNCHANGED. -/
def Obligations.LogicOperations : Prop :=
  ∀ (x y : Reg) (s : State),
    (∃ t, exec (.orReg x y) s = .next t ∧ t.out = Output.ok ∧ OthersKept [.v] s t ∧
      ∀ r : Reg, t.reg r = if r = regF ∧ s.params.logicVfQuirk = .reset then 0#8
        else if r = x then s.reg x ||| s.reg y else s.reg r) ∧
    (∃ t, exec (.andReg x y) s = .next t ∧ t.out = Output.ok ∧ OthersKept [.v] s t ∧
      ∀ r : Reg, t.reg r = if r = regF ∧ s.params.logicVfQuirk = .reset then 0#8
        else if r = x then s.reg x &&& s.reg y else s.reg r) ∧
    (∃ t, exec (.xorReg x y) s = .next t ∧ t.out = Output.ok ∧ OthersKept [.v] s t ∧
      ∀ r : Reg, t.reg r = if r = regF ∧ s.params.logicVfQuirk = .reset then 0#8
        else if r = x then s.reg x ^^^ s.reg y else s.reg r)

/-- R137: ADD Vx, Vy completes; VF is the carry of the 9-bit sum, written last, so with x = F the result is lost. -/
def Obligations.AddWithCarry : Prop :=
  ∀ (x y : Reg) (s : State), ∃ t, exec (.addReg x y) s = .next t ∧ t.out = Output.ok ∧ OthersKept [.v] s t ∧
    (t.reg regF).toNat = (if 255 < (s.reg x).toNat + (s.reg y).toNat then 1 else 0) ∧
    (x ≠ regF → (t.reg x).toNat = ((s.reg x).toNat + (s.reg y).toNat) % 256) ∧
    ∀ r : Reg, r ≠ x → r ≠ regF → t.reg r = s.reg r

/-- From R138 and R140: SUB and SUBN complete; the difference is modulo 256 and VF is 1 exactly where there is no
borrow, equality included (the spec's decisions D9 and D10). -/
def Obligations.SubtractBothWays : Prop :=
  ∀ (x y : Reg) (s : State),
    (∃ t, exec (.sub x y) s = .next t ∧ t.out = Output.ok ∧ OthersKept [.v] s t ∧
      (t.reg regF).toNat = (if (s.reg y).toNat ≤ (s.reg x).toNat then 1 else 0) ∧
      (x ≠ regF → ((t.reg x).toNat : Int) = ((s.reg x).toNat - (s.reg y).toNat : Int) % 256) ∧
      ∀ r : Reg, r ≠ x → r ≠ regF → t.reg r = s.reg r) ∧
    (∃ t, exec (.subn x y) s = .next t ∧ t.out = Output.ok ∧ OthersKept [.v] s t ∧
      (t.reg regF).toNat = (if (s.reg x).toNat ≤ (s.reg y).toNat then 1 else 0) ∧
      (x ≠ regF → ((t.reg x).toNat : Int) = ((s.reg y).toNat - (s.reg x).toNat : Int) % 256) ∧
      ∀ r : Reg, r ≠ x → r ≠ regF → t.reg r = s.reg r)

/-- R139, R141: SHR and SHL complete; they shift Vx or Vy as SHIFT_QUIRK says, and VF is the bit shifted out. -/
def Obligations.ShiftsByOne : Prop :=
  ∀ (x y : Reg) (s : State) (src : Nat),
    src = (if s.params.shiftQuirk = .vx then s.reg x else s.reg y).toNat →
    (∃ t, exec (.shr x y) s = .next t ∧ t.out = Output.ok ∧ OthersKept [.v] s t ∧
      (t.reg regF).toNat = src % 2 ∧ (x ≠ regF → (t.reg x).toNat = src / 2) ∧
      ∀ r : Reg, r ≠ x → r ≠ regF → t.reg r = s.reg r) ∧
    (∃ t, exec (.shl x y) s = .next t ∧ t.out = Output.ok ∧ OthersKept [.v] s t ∧
      (t.reg regF).toNat = src / 128 ∧ (x ≠ regF → (t.reg x).toNat = src * 2 % 256) ∧
      ∀ r : Reg, r ≠ x → r ≠ regF → t.reg r = s.reg r)

/-- R142: RND completes and writes the next byte of the random source under the mask, whatever that byte is (it is a
free value); no bit outside the mask is set; one draw is taken. -/
def Obligations.RandomUnderMask : Prop :=
  ∀ (x : Reg) (nn : Byte) (s : State), ∃ t, exec (.rnd x nn) s = .next t ∧ t.out = Output.ok ∧
    OthersKept [.v, .draws] s t ∧ t.draws = s.draws + 1 ∧
    t.reg x = Config.randomByte s.draws &&& nn ∧ t.reg x &&& ~~~nn = 0#8 ∧
    ∀ r : Reg, r ≠ x → t.reg r = s.reg r

/-! ### Control flow (40_control_flow.md) -/

/-- From R100: SYS has no effect but UnknownOpcode, reported for its word and address; PC stays at P + 2 (the spec's
decision D7). -/
def Obligations.SysReportsUnknown : Prop :=
  ∀ (nnn : Addr12) (s : State), ∃ t, exec (.sys nnn) s = .next t ∧ OthersKept [] s t ∧
    t.out = { result := .status (.unknownOpcode (0x0#4 ++ nnn) (s.pc - 2#16))
              report := some (.unknownOpcode (0x0#4 ++ nnn) (s.pc - 2#16)) }

/-- From R102 and R108: JP goes to nnn, JP V0 to nnn + V0, which is not masked to 12 bits (the spec's decision D8). -/
def Obligations.JumpTargets : Prop :=
  ∀ (nnn : Addr12) (s : State),
    (∃ t, exec (.jp nnn) s = .next t ∧ t.out = Output.ok ∧ OthersKept [.pc] s t ∧ t.pc.toNat = nnn.toNat) ∧
    (∃ t, exec (.jpV0 nnn) s = .next t ∧ t.out = Output.ok ∧ OthersKept [.pc] s t ∧
      t.pc.toNat = nnn.toNat + (s.reg 0).toNat)

/-- R103, R242: below SP = 16 CALL completes: it pushes PC, increments SP and jumps; at SP = 16 it raises
StackOverflow before any write. -/
def Obligations.CallPushesOrOverflows : Prop :=
  ∀ (nnn : Addr12) (s : State),
    (s.sp.toNat < 16 → ∃ t, exec (.call nnn) s = .next t ∧ t.out = Output.ok ∧
      OthersKept [.stack, .sp, .pc] s t ∧ t.pc.toNat = nnn.toNat ∧ t.sp.toNat = s.sp.toNat + 1 ∧
      ∀ k : Fin 16, t.stack.get k = if k.val = s.sp.toNat then s.pc else s.stack.get k) ∧
    (s.sp.toNat = 16 → RaisesFatal (exec (.call nnn) s) s (.stackOverflow (s.pc - 2#16)))

/-- R101, R243: above SP = 0 RET completes: SP is decremented and PC is the slot then at SP, which is not cleared; at
SP = 0 it raises StackUnderflow before any write. -/
def Obligations.RetPopsOrUnderflows : Prop :=
  ∀ s : State,
    (∀ k : Fin 16, s.sp.toNat = k.val + 1 → ∃ t, exec .ret s = .next t ∧ t.out = Output.ok ∧
      OthersKept [.sp, .pc] s t ∧ t.sp.toNat = k.val ∧ t.pc = s.stack.get k) ∧
    (s.sp.toNat = 0 → RaisesFatal (exec .ret s) s (.stackUnderflow (s.pc - 2#16)))

/-- The model's choice of notes/assumptions/7.md: where SP is above 16, which R31 says never is, CALL and RET stop. -/
def Obligations.IllegalStackPointerStops : Prop :=
  ∀ (nnn : Addr12) (s : State), 16 < s.sp.toNat →
    exec (.call nnn) s = .fault .illegalStackPointer ∧ exec .ret s = .fault .illegalStackPointer

/-- R104 to R107: the four skips complete; PC advances by an additional 2 exactly where the condition holds. -/
def Obligations.SkipsOnRegisters : Prop :=
  ∀ (x y : Reg) (nn : Byte) (s : State),
    (∃ t, exec (.seImm x nn) s = .next t ∧ t.out = Output.ok ∧ OthersKept [.pc] s t ∧
      t.pc.toNat = (s.pc.toNat + if s.reg x = nn then 2 else 0) % 65536) ∧
    (∃ t, exec (.sneImm x nn) s = .next t ∧ t.out = Output.ok ∧ OthersKept [.pc] s t ∧
      t.pc.toNat = (s.pc.toNat + if s.reg x = nn then 0 else 2) % 65536) ∧
    (∃ t, exec (.seReg x y) s = .next t ∧ t.out = Output.ok ∧ OthersKept [.pc] s t ∧
      t.pc.toNat = (s.pc.toNat + if s.reg x = s.reg y then 2 else 0) % 65536) ∧
    (∃ t, exec (.sneReg x y) s = .next t ∧ t.out = Output.ok ∧ OthersKept [.pc] s t ∧
      t.pc.toNat = (s.pc.toNat + if s.reg x = s.reg y then 0 else 2) % 65536)

/-- R109: a CALL at P followed at once by a RET at its target leaves PC = P + 2 and SP as before. -/
def Obligations.CallThenReturn : Prop :=
  ∀ (nnn : Addr12) (w w' : Word) (s : State), s.nextOp = .executeOne → s.takeOp.nextOp = .executeOne →
    s.halted = none → s.sp.toNat < 16 → s.fetch = some w → decodeWord w = .ok (.call nnn) →
    State.fetch { s with pc := zextAddr nnn } = some w' → decodeWord w' = .ok .ret →
    ∃ t u, step s = .next t ∧ t.pc.toNat = nnn.toNat ∧ step t = .next u ∧
      u.pc = s.pc + 2#16 ∧ u.sp = s.sp ∧ OthersKept [.pc, .stack] s.takeOp.takeOp u

/-! ### Index register and memory transfers (42_index_memory.md) -/

/-- From R170, R171 and R172: ANNN loads I, FX1E adds with a wrap and no flag, FX29 computes Vx * 5 without a mask (the
spec's decisions D14 and D18). -/
def Obligations.IndexRegisterWrites : Prop :=
  ∀ (nnn : Addr12) (x : Reg) (s : State),
    (∃ t, exec (.ldI nnn) s = .next t ∧ t.out = Output.ok ∧ OthersKept [.i] s t ∧ t.i.toNat = nnn.toNat) ∧
    (∃ t, exec (.addI x) s = .next t ∧ t.out = Output.ok ∧ OthersKept [.i] s t ∧
      t.i.toNat = (s.i.toNat + (s.reg x).toNat) % 65536) ∧
    (∃ t, exec (.ldF x) s = .next t ∧ t.out = Output.ok ∧ OthersKept [.i] s t ∧
      t.i.toNat = (s.reg x).toNat * 5)

/-- R173: FX33 stores the three decimal digits of Vx at I, I + 1, I + 2; where I + 2 passes 0xFFF it raises
OutOfBoundsAccess before any byte is written. -/
def Obligations.BcdStore : Prop :=
  ∀ (x : Reg) (s : State),
    (s.i.toNat + 2 ≤ 0xFFF → ∃ t, exec (.ldB x) s = .next t ∧ t.out = Output.ok ∧ OthersKept [.mem] s t ∧
      (t.mem.read s.i.toNat).toNat = (s.reg x).toNat / 100 ∧
      (t.mem.read (s.i.toNat + 1)).toNat = (s.reg x).toNat / 10 % 10 ∧
      (t.mem.read (s.i.toNat + 2)).toNat = (s.reg x).toNat % 10 ∧
      ∀ a : Nat, a < s.i.toNat ∨ s.i.toNat + 2 < a → t.mem.read a = s.mem.read a) ∧
    (0xFFF < s.i.toNat + 2 →
      RaisesFatal (exec (.ldB x) s) s (.outOfBounds .write (max s.i.toNat 0x1000) (s.pc - 2#16)))

/-- R174: FX55 stores V0..Vx at I + 0 .. I + x and leaves I; where I + x passes 0xFFF it raises OutOfBoundsAccess
before any byte is written. -/
def Obligations.StoreRegisters : Prop :=
  ∀ (x : Reg) (s : State),
    (s.i.toNat + x.val ≤ 0xFFF → ∃ t, exec (.ldStore x) s = .next t ∧ t.out = Output.ok ∧
      OthersKept [.mem] s t ∧ (∀ k : Reg, k.val ≤ x.val → t.mem.read (s.i.toNat + k.val) = s.reg k) ∧
      ∀ a : Nat, a < s.i.toNat ∨ s.i.toNat + x.val < a → t.mem.read a = s.mem.read a) ∧
    (0xFFF < s.i.toNat + x.val →
      RaisesFatal (exec (.ldStore x) s) s (.outOfBounds .write (max s.i.toNat 0x1000) (s.pc - 2#16)))

/-- R175: FX65 loads V0..Vx from I + 0 .. I + x and leaves I and memory; where I + x passes 0xFFF it raises
OutOfBoundsAccess before any register is written. -/
def Obligations.LoadRegisters : Prop :=
  ∀ (x : Reg) (s : State),
    (s.i.toNat + x.val ≤ 0xFFF → ∃ t, exec (.ldLoad x) s = .next t ∧ t.out = Output.ok ∧
      OthersKept [.v] s t ∧
      ∀ k : Reg, t.reg k = if k.val ≤ x.val then s.mem.read (s.i.toNat + k.val) else s.reg k) ∧
    (0xFFF < s.i.toNat + x.val →
      RaisesFatal (exec (.ldLoad x) s) s (.outOfBounds .read (max s.i.toNat 0x1000) (s.pc - 2#16)))

/-- From R75 and R291: after an FX55, a fetch at stored bytes sees the stored registers, at once. -/
def Obligations.StoredCodeIsFetched : Prop :=
  ∀ (x k : Reg) (s : State), s.i.toNat + x.val ≤ 0xFFF → k.val < x.val →
    ∃ t, exec (.ldStore x) s = .next t ∧
      ∀ w : Word, w.toNat = s.i.toNat + k.val →
        (t.setPc w).fetch = some (wordOfBytes (s.reg k) (s.reg (k + 1)))

/-! ### Display (43_display.md) -/

/-- R200, R204: after CLS every cell is 0; VF and everything else are unchanged. -/
def Obligations.ClearDisplay : Prop :=
  ∀ s : State, ∃ t, exec .cls s = .next t ∧ t.out = Output.ok ∧ OthersKept [.disp] s t ∧
    ∀ (px : Fin 64) (py : Fin 32), Display.cell t.disp px py = false

/-- From R201 (its bit order and the time the coordinates are read are the spec's decision D15): where the rows are in
bounds DRW completes: a cell is toggled exactly where a set sprite bit wraps to it, VF
is 1 exactly where such a cell was set, the coordinates being read before VF is written; no other register changes.
Where a row passes 0xFFF it raises OutOfBoundsAccess before VF or any cell is written. -/
def Obligations.DrawTogglesSprite : Prop :=
  ∀ (x y : Reg) (n : Fin 16) (s : State),
    ((n.val = 0 ∨ s.i.toNat + n.val - 1 ≤ 0xFFF) → ∃ t, exec (.drw x y n) s = .next t ∧ t.out = Output.ok ∧
      OthersKept [.v, .disp] s t ∧ (∀ r : Reg, r ≠ regF → t.reg r = s.reg r) ∧
      (∀ (px : Fin 64) (py : Fin 32),
        (SpriteCovers s x y n px py → Display.cell t.disp px py = !Display.cell s.disp px py) ∧
        (¬ SpriteCovers s x y n px py → Display.cell t.disp px py = Display.cell s.disp px py)) ∧
      ((∃ px py, SpriteCovers s x y n px py ∧ Display.cell s.disp px py = true) → t.reg regF = 1#8) ∧
      ((¬ ∃ px py, SpriteCovers s x y n px py ∧ Display.cell s.disp px py = true) → t.reg regF = 0#8)) ∧
    (n.val ≠ 0 → 0xFFF < s.i.toNat + n.val - 1 →
      RaisesFatal (exec (.drw x y n) s) s (.outOfBounds .read (max s.i.toNat 0x1000) (s.pc - 2#16)))

/-- R202: after DRW, VF is 1 exactly where some cell that was 1 before is 0 after, and else 0. -/
def Obligations.CollisionLaw : Prop :=
  ∀ (x y : Reg) (n : Fin 16) (s : State), (n.val = 0 ∨ s.i.toNat + n.val - 1 ≤ 0xFFF) →
    ∃ t, exec (.drw x y n) s = .next t ∧
      (t.reg regF = 1#8 ↔ ∃ px py, Display.cell s.disp px py = true ∧ Display.cell t.disp px py = false) ∧
      (t.reg regF = 1#8 ∨ t.reg regF = 0#8)

/-- R203: the same DRW executed again, with I, Vx, Vy and the sprite bytes as they were at the first and the cells as
the first left them, restores every cell. Where x or y is F the law asks that the flag the first one wrote leave the
coordinate as it was. -/
def Obligations.DrawTwiceRestores : Prop :=
  ∀ (x y : Reg) (n : Fin 16) (s : State), (n.val = 0 ∨ s.i.toNat + n.val - 1 ≤ 0xFFF) →
    ∃ t, exec (.drw x y n) s = .next t ∧
      ∀ t' : State, t'.i = s.i → t'.reg x = s.reg x → t'.reg y = s.reg y →
        (∀ row : Nat, row < n.val → t'.mem.read (s.i.toNat + row) = s.mem.read (s.i.toNat + row)) →
        Part.same .disp t t' →
        ∃ u, exec (.drw x y n) t' = .next u ∧ Part.same .disp s u

/-- From R205 and R201 (that bit 7 of a sprite byte is column 0 is the spec's decision D15, PRESUMED,
notes/assumptions/9.md): a draw depends on its coordinates modulo 64 and 32 only, and each set bit of the sprite toggles
the cell at its own coordinates modulo 64 and 32: past the bounds a draw wraps, and neither stops nor clips. -/
def Obligations.CoordinatesWrap : Prop :=
  ∀ (x y : Reg) (n : Fin 16) (s : State), (n.val = 0 ∨ s.i.toNat + n.val - 1 ≤ 0xFFF) →
    (∃ t, exec (.drw x y n) s = .next t ∧
      ∀ (row col : Nat) (px : Fin 64) (py : Fin 32), row < n.val → col < 8 →
        (s.mem.read (s.i.toNat + row)).getLsbD (7 - col) = true →
        px.val = ((s.reg x).toNat + col) % 64 → py.val = ((s.reg y).toNat + row) % 32 →
        Display.cell t.disp px py = !Display.cell s.disp px py) ∧
    ∀ s' : State, s'.i = s.i → (∀ a : Nat, s'.mem.read a = s.mem.read a) → Part.same .disp s s' →
      (s'.reg x).toNat % 64 = (s.reg x).toNat % 64 → (s'.reg y).toNat % 32 = (s.reg y).toNat % 32 →
      ∃ t t', exec (.drw x y n) s = .next t ∧ exec (.drw x y n) s' = .next t' ∧
        Part.same .disp t t' ∧ t'.reg regF = t.reg regF

/-! ### Keys and timers (44_input_timers.md) -/

/-- From R220 and R221 (the stop at an index above 0xF is the spec's decision D17): with a legal key index SKP skips
exactly where the key is down and SKNP exactly where it is up; an index above 0xF raises OutOfBoundsAccess of kind
key. -/
def Obligations.KeySkips : Prop :=
  ∀ (x : Reg) (s : State),
    (∀ k : KeyIx, (s.reg x).toNat = k.val →
      (∃ t, exec (.skp x) s = .next t ∧ t.out = Output.ok ∧ OthersKept [.pc] s t ∧
        t.pc = if s.keyDown k then s.pc + 2#16 else s.pc) ∧
      (∃ t, exec (.sknp x) s = .next t ∧ t.out = Output.ok ∧ OthersKept [.pc] s t ∧
        t.pc = if s.keyDown k then s.pc else s.pc + 2#16)) ∧
    (15 < (s.reg x).toNat →
      RaisesFatal (exec (.skp x) s) s (.outOfBounds .key (s.reg x).toNat (s.pc - 2#16)) ∧
      RaisesFatal (exec (.sknp x) s) s (.outOfBounds .key (s.reg x).toNat (s.pc - 2#16)))

/-- From R222 (the test of the level is the spec's decision D19): FX0A with keys down completes with the lowest one in
Vx; with none down PC goes back to P, the status is KEY_WAIT and nothing else changes. -/
def Obligations.KeyWaitOrLowestKey : Prop :=
  ∀ (x : Reg) (s : State),
    (∀ k : KeyIx, s.keyDown k = true → (∀ j : KeyIx, j < k → s.keyDown j = false) →
      ∃ t, exec (.ldK x) s = .next t ∧ t.out = Output.ok ∧ OthersKept [.v] s t ∧
        (t.reg x).toNat = k.val ∧ ∀ r : Reg, r ≠ x → t.reg r = s.reg r) ∧
    ((∀ k : KeyIx, s.keyDown k = false) →
      ∃ t, exec (.ldK x) s = .next t ∧ t.out = { result := .status .keyWait, report := none } ∧
        OthersKept [.pc] s t ∧ t.pc = s.pc - 2#16)

/-- R226 (and R293): while no key is down any number of calls at an FX0A leave PC = P and change nothing else, with any
number of ticks between them, which count the timers down and change nothing else; a call with a key down stores the
lowest one and leaves PC = P + 2, and changes nothing else. -/
def Obligations.KeyWaitLaw : Prop :=
  ∀ (x : Reg) (s : State), s.halted = none → s.fetch = some (encode (.ldK x)) →
    ((∀ k : KeyIx, s.keyDown k = false) → ∀ ops rest : List Operation, s.pending = ops ++ rest →
      (∀ op ∈ ops, op = .executeOne ∨ op = .tick) →
      ∃ t, Sys2Proof.core.run ops.length s = .next t ∧ t.pending = rest ∧
        OthersKept [.dt, .st, .pending] s t ∧
        t.dt.toNat = s.dt.toNat - ops.count .tick ∧ t.st.toNat = s.st.toNat - ops.count .tick) ∧
    (s.nextOp = .executeOne →
      ∀ k : KeyIx, s.keyDown k = true → (∀ j : KeyIx, j < k → s.keyDown j = false) →
        ∃ t, step s = .next t ∧ (t.reg x).toNat = k.val ∧ (∀ r : Reg, r ≠ x → t.reg r = s.reg r) ∧
          t.pc = s.pc + 2#16 ∧ OthersKept [.v, .pc] s.takeOp t)

/-- From R223, R224 and R225: the timer transfers complete; no transfer gives a cue, a write of 0 to ST included (the
spec's decision D21). -/
def Obligations.TimerTransfers : Prop :=
  ∀ (x : Reg) (s : State),
    (∃ t, exec (.ldVxDt x) s = .next t ∧ t.out = Output.ok ∧ OthersKept [.v] s t ∧
      ∀ r : Reg, t.reg r = if r = x then s.dt else s.reg r) ∧
    (∃ t, exec (.ldDt x) s = .next t ∧ t.out = Output.ok ∧ OthersKept [.dt] s t ∧ t.dt = s.reg x) ∧
    (∃ t, exec (.ldSt x) s = .next t ∧ t.out = Output.ok ∧ OthersKept [.st] s t ∧ t.st = s.reg x)

/-- From R254 and R255: one tick of a running session decrements each timer that is above 0 and gives the cue exactly
where ST goes from 1 to 0; in a halted session it changes nothing (the spec's decision D20) and returns the condition,
and that it emits no report is DEDUCED (notes/assumptions/6.md). No other step gives a cue (the spec's decision D21). -/
def Obligations.TickCountsDown : Prop :=
  (∀ s : State, s.nextOp = .tick →
    (s.halted = none → ∃ t, step s = .next t ∧ OthersKept [.dt, .st] s.takeOp t ∧
      t.dt.toNat = s.dt.toNat - 1 ∧ t.st.toNat = s.st.toNat - 1 ∧
      t.out = { result := .cue (decide (s.st.toNat = 1)), report := none }) ∧
    (∀ c : Fatal, s.halted = some c → ∃ t, step s = .next t ∧ OthersKept [] s.takeOp t ∧
      t.out = { result := .status (.fatal c), report := none })) ∧
  ∀ s t : State, step s = .next t → t.out.result = .cue true →
    s.nextOp = .tick ∧ s.halted = none ∧ s.st = 1#8 ∧ t.st = 0#8

/-- R257: with ST = 1 the first of two ticks gives ST = 0 and the cue, the second ST = 0 and none. -/
def Obligations.OneCuePerExpiry : Prop :=
  ∀ s : State, s.nextOp = .tick → s.takeOp.nextOp = .tick → s.halted = none → s.st = 1#8 →
    ∃ t u, step s = .next t ∧ t.st = 0#8 ∧ t.out.result = .cue true ∧
      step t = .next u ∧ u.st = 0#8 ∧ u.out.result = .cue false

/-! ### The host's operations (60_exceptions.md, 70_reset_and_hazards.md) -/

/-- From R280 and R281 (what it leaves alone is the spec's decision D23): reset() zeroes registers, stack and timers
and sets PC to 0x200; memory, display, keys and halted stay, and no cue is given. -/
def Obligations.ResetOperation : Prop :=
  ∀ s : State, s.nextOp = .reset →
    ∃ t, step s = .next t ∧ OthersKept [.v, .i, .sp, .stack, .dt, .st, .pc] s.takeOp t ∧
      (∀ r : Reg, t.reg r = 0#8) ∧ t.i = 0#16 ∧ t.sp = 0#8 ∧ (∀ k : Fin 16, t.stack.get k = 0#16) ∧
      t.dt = 0#8 ∧ t.st = 0#8 ∧ t.pc = 0x200#16 ∧ t.out = { result := .done, report := none }

/-- R264: setKey(k, b) sets that key and changes nothing else. -/
def Obligations.SetKeyOperation : Prop :=
  ∀ (s : State) (k : KeyIx) (b : Bool), s.nextOp = .setKey k b →
    ∃ t, step s = .next t ∧ OthersKept [.key] s.takeOp t ∧
      ∀ j : KeyIx, t.keyDown j = if j = k then b else s.keyDown j

/-- From R265 and R35: readDisplay() gives the 2048 cells, cell (px, py) at py * 64 + px (the spec's decision D15), and
changes nothing. -/
def Obligations.ReadDisplayOperation : Prop :=
  ∀ s : State, s.nextOp = .readDisplay →
    ∃ t cells, step s = .next t ∧ OthersKept [] s.takeOp t ∧
      t.out = { result := .display cells, report := none } ∧ cells.length = 2048 ∧
      ∀ (px : Fin 64) (py : Fin 32), cells[py.val * 64 + px.val]? = some (Display.cell s.disp px py)

/-- R263: loadFont writes its 80 bytes to 0x000..0x04F and changes nothing else. -/
def Obligations.LoadFontOperation : Prop :=
  ∀ (s : State) (font : Vector Byte 80), s.nextOp = .loadFont font →
    ∃ t, step s = .next t ∧ OthersKept [.mem] s.takeOp t ∧
      (∀ k : Fin 80, t.mem.read k.val = font.get k) ∧ ∀ a : Nat, 80 ≤ a → t.mem.read a = s.mem.read a

/-- R262: loadProgram writes the image from 0x200; an image over 3584 bytes is truncated to that or rejected with memory
unchanged, as LOADER_OVERSIZE says; no other state changes. -/
def Obligations.LoadProgramOperation : Prop :=
  ∀ (s : State) (image : List Byte), s.nextOp = .loadProgram image →
    (image.length ≤ 3584 ∨ s.params.loaderOversize = .truncate →
      ∃ t, step s = .next t ∧ OthersKept [.mem] s.takeOp t ∧
        t.out = { result := .loaded true, report := none } ∧
        (∀ (j : Nat) (b : Byte), j < 3584 → image[j]? = some b → t.mem.read (0x200 + j) = b) ∧
        ∀ a : Nat, a < 0x200 ∨ 0x200 + min image.length 3584 ≤ a → t.mem.read a = s.mem.read a) ∧
    (3584 < image.length → s.params.loaderOversize = .reject →
      ∃ t, step s = .next t ∧ OthersKept [] s.takeOp t ∧
        t.out = { result := .loaded false, report := none })

/-- R282: create starts a session with everything zero but PC = 0x200, the font and the image; where the loader rejects
the image there is no session. -/
def Obligations.CreateSession : Prop :=
  ∀ (p : Params) (font : Vector Byte 80) (image : List Byte),
    (image.length ≤ 3584 ∨ p.loaderOversize = .truncate → ∃ s, State.create p font image = some s ∧
      (∀ r : Reg, s.reg r = 0#8) ∧ s.i = 0#16 ∧ s.pc = 0x200#16 ∧ s.sp = 0#8 ∧
      (∀ k : Fin 16, s.stack.get k = 0#16) ∧ s.dt = 0#8 ∧ s.st = 0#8 ∧
      (∀ (px : Fin 64) (py : Fin 32), Display.cell s.disp px py = false) ∧
      (∀ k : KeyIx, s.keyDown k = false) ∧ s.halted = none ∧ s.params = p ∧
      (∀ k : Fin 80, s.mem.read k.val = font.get k) ∧
      (∀ a : Nat, 80 ≤ a → a < 0x200 → s.mem.read a = 0#8) ∧
      (∀ (j : Nat) (b : Byte), j < 3584 → image[j]? = some b → s.mem.read (0x200 + j) = b) ∧
      (∀ a : Nat, 0x200 + min image.length 3584 ≤ a → s.mem.read a = 0#8)) ∧
    (3584 < image.length → p.loaderOversize = .reject → State.create p font image = none)

/-- From R41 and R284: the state after session creation has PC at the entry point, every register and byte zero but the
font of R66, and no condition. The model's choices: TRUNCATE among the parameters, for which R9 gives no default
(notes/assumptions/1.md), the conventional font bytes (PRESUMED, notes/assumptions/5.md), and the empty program image
(notes/assumptions/8.md). -/
def Obligations.ResetState : Prop :=
  State.create Params.default conventionalFont [] = some State.reset ∧
    State.reset.pc = 0x200#16 ∧ State.reset.halted = none ∧
    (∀ r : Reg, State.reset.reg r = 0#8) ∧ (∀ a : Nat, 80 ≤ a → State.reset.mem.read a = 0#8) ∧
    State.reset.mem.readBytes 0x032 5 = [0xF0#8, 0x90#8, 0xF0#8, 0x90#8, 0x90#8]

/-! ### Fetch, decode, the step (20_memory.md, 30_encoding.md, 60_exceptions.md) -/

/-- From R64 (the stop past 0xFFF is the spec's decision D2): the fetch is the big-endian word at PC; with PC + 1 past
0xFFF a call raises OutOfBoundsAccess of kind fetch and leaves PC. -/
def Obligations.FetchBigEndianInBounds : Prop :=
  ∀ s : State,
    (s.pc.toNat + 1 ≤ 0xFFF → ∃ w : Word, s.fetch = some w ∧
      w.toNat = 256 * (s.mem.read s.pc.toNat).toNat + (s.mem.read (s.pc.toNat + 1)).toNat) ∧
    (0xFFF < s.pc.toNat + 1 → s.nextOp = .executeOne → s.halted = none →
      RaisesFatal (step s) s.takeOp (.outOfBounds .fetch s.pc.toNat s.pc))

/-- From R80 and R285: a step is the operation that comes next; where that is a call of a running session whose fetched
word decodes, it is exec of that instruction with PC advanced by 2, and nothing else is done around it but that the
call is taken from the schedule: the first of `pending`, or none where a driver that only calls has none listed. -/
def Obligations.StepRunsDecoded : Prop :=
  (∀ (s : State) (w : Word) (i : Instr), s.nextOp = .executeOne → s.halted = none → s.fetch = some w →
    decodeWord w = .ok i → step s = exec i { s.takeOp with pc := s.pc + 2#16 }) ∧
  (∀ (s : State) (op : Operation) (rest : List Operation), s.pending = op :: rest →
    s.nextOp = op ∧ s.takeOp = { s with pending := rest }) ∧
  ∀ s : State, s.pending = [] → s.driver = .calls → s.nextOp = .executeOne ∧ s.takeOp = s

/-- From the fixed interface (notes/assumptions/8.md): `withFetchWord` makes the very next step run the instruction the
decoder reads from the bits. The state differs from s in the two bytes at PC, in `halted` and `pending`, and in PC only
where no fetch may start at s's. -/
def Obligations.PlacedWordRuns : Prop :=
  ∀ (s : State) (nbits w : Nat) (i : Instr), decodeTableWord nbits w = some i →
    step (s.withFetchWord nbits w) =
        exec i { (s.withFetchWord nbits w).takeOp with pc := (s.withFetchWord nbits w).pc + 2#16 } ∧
      OthersKept [.mem, .pc, .halted, .pending] s (s.withFetchWord nbits w) ∧
      (s.pc.toNat + 1 ≤ 0xFFF → (s.withFetchWord nbits w).pc = s.pc) ∧
      ∀ a : Nat, a ≠ (s.withFetchWord nbits w).pc.toNat → a ≠ (s.withFetchWord nbits w).pc.toNat + 1 →
        (s.withFetchWord nbits w).mem.read a = s.mem.read a

/-- R241: a call whose word is unknown, or is SYS, has no effect but PC = P + 2, the report and the status. -/
def Obligations.UnknownOpcodeContinues : Prop :=
  ∀ (s : State) (w : Word), s.nextOp = .executeOne → s.halted = none → s.fetch = some w →
    ((∃ e, decodeWord w = .error e) ∨ ∃ nnn, decodeWord w = .ok (.sys nnn)) →
    ∃ t, step s = .next t ∧ t.pc = s.pc + 2#16 ∧ OthersKept [.pc] s.takeOp t ∧
      t.out = { result := .status (.unknownOpcode w s.pc), report := some (.unknownOpcode w s.pc) }

/-- From R81 to R85: every well-formed instruction, at every value of its operands, decodes from its encoding, as a
word and as the bytes memory holds, whatever bytes follow. -/
def Obligations.DecodeEncode : Prop :=
  ∀ (i : Instr) (rest : List Byte), i.wellFormed = true →
    decodeWord (encode i) = .ok i ∧ decodeBytes (encodeBytes i ++ rest) = .ok (i, rest)

/-- From R82 and R85: a word that decodes gives a well-formed instruction, and is its encoding in every bit the
instruction names. -/
def Obligations.EncodeDecode : Prop :=
  ∀ (w : Word) (i : Instr), decodeWord w = .ok i →
    i.wellFormed = true ∧ w &&& i.namedBits = encode i

/-- From R86: the words that decode to no instruction are those of families 8, E and F outside the table's values. -/
def Obligations.UnknownWords : Prop :=
  ∀ w : Word, (∃ e, decodeWord w = .error e) ↔
    (w.toNat / 4096 = 0x8 ∧ w.toNat % 16 ∈ [0x8, 0x9, 0xA, 0xB, 0xC, 0xD, 0xF]) ∨
    (w.toNat / 4096 = 0xE ∧ w.toNat % 256 ∉ [0x9E, 0xA1]) ∨
    (w.toNat / 4096 = 0xF ∧ w.toNat % 256 ∉ [0x07, 0x0A, 0x15, 0x18, 0x1E, 0x29, 0x33, 0x55, 0x65])

/-- Words written out from the patterns of R84 (the spec's decision D4), at least one of each of the 16 families, decode
to the instructions they stand for. -/
def Obligations.WordsDecode : Prop :=
  decodeWord 0b0000_0001_0010_0011#16 = .ok (.sys 0x123#12) ∧
  decodeWord 0b0000_0000_1110_0000#16 = .ok .cls ∧
  decodeWord 0b0000_0000_1110_1110#16 = .ok .ret ∧
  decodeWord 0b0001_0010_0011_0100#16 = .ok (.jp 0x234#12) ∧
  decodeWord 0b0010_0010_0000_1000#16 = .ok (.call 0x208#12) ∧
  decodeWord 0b0011_0011_0001_0010#16 = .ok (.seImm 3 0x12#8) ∧
  decodeWord 0b0100_0011_0001_0010#16 = .ok (.sneImm 3 0x12#8) ∧
  decodeWord 0b0101_0001_0010_0000#16 = .ok (.seReg 1 2) ∧
  decodeWord 0b0110_1010_0010_1011#16 = .ok (.ldImm 0xA 0x2B#8) ∧
  decodeWord 0b0111_0000_0000_0001#16 = .ok (.addImm 0 0x01#8) ∧
  decodeWord 0b1000_1010_1011_1110#16 = .ok (.shl 0xA 0xB) ∧
  decodeWord 0b1001_0001_0010_0000#16 = .ok (.sneReg 1 2) ∧
  decodeWord 0b1010_0011_0000_0000#16 = .ok (.ldI 0x300#12) ∧
  decodeWord 0b1011_0011_0000_0000#16 = .ok (.jpV0 0x300#12) ∧
  decodeWord 0b1100_0011_0000_1111#16 = .ok (.rnd 3 0x0F#8) ∧
  decodeWord 0b1101_0010_0011_0101#16 = .ok (.drw 2 3 5) ∧
  decodeWord 0b1110_0101_1010_0001#16 = .ok (.sknp 5) ∧
  decodeWord 0b1111_0011_0000_1010#16 = .ok (.ldK 3) ∧
  decodeWord 0b1111_0010_0110_0101#16 = .ok (.ldLoad 2)

/-! ### The whole machine -/

/-- Every step keeps the memory in canonical form (addresses rising, inside the address space, no entry that reads as
an unlisted address does). -/
def Obligations.MemoryStaysCanonical : Prop :=
  ∀ s t : State, s.memCanonical → step s = .next t → t.memCanonical

/-- Canonical memories that read the same at every address are equal. -/
def Obligations.CanonicalMemoriesAreEqual : Prop :=
  ∀ m m' : Memory, m.wf → m'.wf → (∀ a : Nat, m.read a = m'.read a) → m = m'

/-- R31: no step takes SP out of 0..16; CALL with SP = 16 raises StackOverflow and RET with SP = 0 StackUnderflow. -/
def Obligations.StackPointerStaysLegal : Prop :=
  (∀ s t : State, s.spLegal → step s = .next t → t.spLegal) ∧
  (∀ (nnn : Addr12) (s : State), s.sp = 16#8 →
    RaisesFatal (exec (.call nnn) s) s (.stackOverflow (s.pc - 2#16))) ∧
  (∀ s : State, s.sp = 0#8 → RaisesFatal (exec .ret s) s (.stackUnderflow (s.pc - 2#16)))

/-- From R28 and R101: no step takes PC above 0x10FE, nor pushes a return address above 0x1000. -/
def Obligations.ProgramCounterStaysReachable : Prop :=
  ∀ s t : State, s.pcReachable → step s = .next t → t.pcReachable

/-- The three invariants hold of every session that create gives, with any parameters, font and image, and of the state
after reset. -/
def Obligations.InvariantsHoldAtReset : Prop :=
  (∀ (p : Params) (font : Vector Byte 80) (image : List Byte) (s : State), State.create p font image = some s →
    s.memCanonical ∧ s.spLegal ∧ s.pcReachable) ∧
  State.reset.memCanonical ∧ State.reset.spLegal ∧ State.reset.pcReachable

/-- R246: from a legal SP every call answers a next state and exactly one status; a status that is not fatal leaves the
session running, a fatal one leaves it halted with that condition. -/
def Obligations.EveryCallReturnsAStatus : Prop :=
  ∀ s : State, s.spLegal → s.nextOp = .executeOne →
    ∃ t st, step s = .next t ∧ t.out.result = .status st ∧
      ((∀ c : Fatal, st ≠ .fatal c) → t.halted = none) ∧ ∀ c : Fatal, st = .fatal c → t.halted = some c

/-- From R245 and R70: a step that raises a fatal condition writes nothing but `halted`, its status and report; PC is
P + 2, or P where the fetch was out of bounds. -/
def Obligations.FatalLeavesNoPartialWrite : Prop :=
  ∀ (s t : State) (c : Fatal), s.halted = none → step s = .next t → t.halted = some c →
    s.nextOp = .executeOne ∧ OthersKept [.halted, .pc] s.takeOp t ∧
      t.out = { result := .status (.fatal c), report := some (.fatal c) } ∧
      (t.pc = if s.fetch = none then s.pc else s.pc + 2#16)

/-- From R38 and R245 (that nothing clears it is the spec's decision D20; that a halted call emits no second report is
DEDUCED, notes/assumptions/6.md): once `halted` holds a condition no step changes it; a call or a tick then changes
nothing and returns the recorded condition; at creation it is none. -/
def Obligations.HaltedIsForever : Prop :=
  State.reset.halted = none ∧ ∀ (s : State) (c : Fatal), s.halted = some c →
    (∀ t, step s = .next t → t.halted = some c) ∧
    (s.nextOp = .executeOne ∨ s.nextOp = .tick → ∃ t, step s = .next t ∧ OthersKept [] s.takeOp t ∧
      t.out = { result := .status (.fatal c), report := none })

/-- From R34: a step that changes a display cell runs CLS or DRW. -/
def Obligations.OnlyClearAndDrawChangeDisplay : Prop :=
  ∀ s t : State, step s = .next t → ¬ Part.same .disp s t →
    s.nextOp = .executeOne ∧ ∃ w i, s.fetch = some w ∧ decodeWord w = .ok i ∧
      (i = .cls ∨ ∃ x y n, i = .drw x y n)

/-- From R36: a step that changes a key is the input collaborator's setKey; no instruction writes a key. -/
def Obligations.OnlySetKeyChangesKeys : Prop :=
  ∀ s t : State, step s = .next t → ¬ Part.same .key s t →
    ∃ k b, s.nextOp = .setKey k b

/-- From R25 and R40: among instructions I is written only by ANNN, FX1E and FX29, the stack only by CALL, SP only by
CALL and RET, DT only by FX15 and ST only by FX18. -/
def Obligations.ControlStateWriters : Prop :=
  ∀ (i : Instr) (s t : State), exec i s = .next t →
    (t.i ≠ s.i → (∃ nnn, i = .ldI nnn) ∨ (∃ x, i = .addI x) ∨ ∃ x, i = .ldF x) ∧
    (t.stack ≠ s.stack → ∃ nnn, i = .call nnn) ∧
    (t.sp ≠ s.sp → (∃ nnn, i = .call nnn) ∨ i = .ret) ∧
    (t.dt ≠ s.dt → ∃ x, i = .ldDt x) ∧
    (t.st ≠ s.st → ∃ x, i = .ldSt x)

/-- From R63 and R60: a byte of memory changes only by FX33, FX55 or a loader. -/
def Obligations.OnlyStoresChangeMemory : Prop :=
  ∀ s t : State, step s = .next t → ¬ Part.same .mem s t →
    (∃ font, s.nextOp = .loadFont font) ∨
    (∃ image, s.nextOp = .loadProgram image) ∨
    (s.nextOp = .executeOne ∧ ∃ w i, s.fetch = some w ∧ decodeWord w = .ok i ∧
      ((∃ x, i = .ldB x) ∨ ∃ x, i = .ldStore x))

/-- The model's choices of notes/assumptions/1.md and 3.md: the parameters and the schedule are inputs. No step writes
the parameters, and of the schedule a step takes its own operation and leaves the rest as it is. -/
def Obligations.ParametersAreFixed : Prop :=
  ∀ s t : State, step s = .next t →
    t.params = s.params ∧ t.pending = s.takeOp.pending ∧ t.driver = s.takeOp.driver

/-- From R296 (a), the spec's decision D32, and R102: a program at a self-jump rests there: a call executes the jump and
changes nothing; with ticks, key changes and read-outs in any order among the calls, nothing but the timers and the
keys changes, and the program still rests there. -/
def Obligations.SelfJumpRests : Prop :=
  ∀ s : State, s.halted = none → s.atSelfJump →
    (s.nextOp = .executeOne →
      ∃ t, step s = .next t ∧ t.out = Output.ok ∧ OthersKept [] s.takeOp t ∧ t.atSelfJump) ∧
    ∀ ops rest : List Operation, s.pending = ops ++ rest →
      (∀ op ∈ ops, op = .executeOne ∨ op = .tick ∨ op = .readDisplay ∨ ∃ k b, op = .setKey k b) →
      ∃ t, Sys2Proof.core.run ops.length s = .next t ∧ t.pending = rest ∧
        OthersKept [.dt, .st, .key, .pending] s t ∧ t.atSelfJump ∧
        t.dt.toNat = s.dt.toNat - ops.count .tick ∧ t.st.toNat = s.st.toNat - ops.count .tick
end

