-- ==== Sys2Proof/Laws/State.lean ====
section
/-!
SUPPORT. One lemma per field of State per named update, so that no proof unfolds a record update.
-/
namespace Sys2Proof.Machine

variable (s : State)

/-! ### setReg -/

@[simp] theorem State.setReg_mem (x : Reg) (b : Byte) : (s.setReg x b).mem = s.mem := rfl
@[simp] theorem State.setReg_v (x : Reg) (b : Byte) : (s.setReg x b).v = s.v.set x.val b x.isLt := rfl
@[simp] theorem State.setReg_i (x : Reg) (b : Byte) : (s.setReg x b).i = s.i := rfl
@[simp] theorem State.setReg_pc (x : Reg) (b : Byte) : (s.setReg x b).pc = s.pc := rfl
@[simp] theorem State.setReg_stack (x : Reg) (b : Byte) : (s.setReg x b).stack = s.stack := rfl
@[simp] theorem State.setReg_sp (x : Reg) (b : Byte) : (s.setReg x b).sp = s.sp := rfl
@[simp] theorem State.setReg_dt (x : Reg) (b : Byte) : (s.setReg x b).dt = s.dt := rfl
@[simp] theorem State.setReg_st (x : Reg) (b : Byte) : (s.setReg x b).st = s.st := rfl
@[simp] theorem State.setReg_disp (x : Reg) (b : Byte) : (s.setReg x b).disp = s.disp := rfl
@[simp] theorem State.setReg_key (x : Reg) (b : Byte) : (s.setReg x b).key = s.key := rfl
@[simp] theorem State.setReg_halted (x : Reg) (b : Byte) : (s.setReg x b).halted = s.halted := rfl
@[simp] theorem State.setReg_params (x : Reg) (b : Byte) : (s.setReg x b).params = s.params := rfl
@[simp] theorem State.setReg_draws (x : Reg) (b : Byte) : (s.setReg x b).draws = s.draws := rfl
@[simp] theorem State.setReg_pending (x : Reg) (b : Byte) : (s.setReg x b).pending = s.pending := rfl
@[simp] theorem State.setReg_driver (x : Reg) (b : Byte) : (s.setReg x b).driver = s.driver := rfl
@[simp] theorem State.setReg_out (x : Reg) (b : Byte) : (s.setReg x b).out = s.out := rfl

/-! ### setI -/

@[simp] theorem State.setI_mem (w : Word) : (s.setI w).mem = s.mem := rfl
@[simp] theorem State.setI_v (w : Word) : (s.setI w).v = s.v := rfl
@[simp] theorem State.setI_i (w : Word) : (s.setI w).i = w := rfl
@[simp] theorem State.setI_pc (w : Word) : (s.setI w).pc = s.pc := rfl
@[simp] theorem State.setI_stack (w : Word) : (s.setI w).stack = s.stack := rfl
@[simp] theorem State.setI_sp (w : Word) : (s.setI w).sp = s.sp := rfl
@[simp] theorem State.setI_dt (w : Word) : (s.setI w).dt = s.dt := rfl
@[simp] theorem State.setI_st (w : Word) : (s.setI w).st = s.st := rfl
@[simp] theorem State.setI_disp (w : Word) : (s.setI w).disp = s.disp := rfl
@[simp] theorem State.setI_key (w : Word) : (s.setI w).key = s.key := rfl
@[simp] theorem State.setI_halted (w : Word) : (s.setI w).halted = s.halted := rfl
@[simp] theorem State.setI_params (w : Word) : (s.setI w).params = s.params := rfl
@[simp] theorem State.setI_draws (w : Word) : (s.setI w).draws = s.draws := rfl
@[simp] theorem State.setI_pending (w : Word) : (s.setI w).pending = s.pending := rfl
@[simp] theorem State.setI_driver (w : Word) : (s.setI w).driver = s.driver := rfl
@[simp] theorem State.setI_out (w : Word) : (s.setI w).out = s.out := rfl

/-! ### setPc -/

@[simp] theorem State.setPc_mem (w : Word) : (s.setPc w).mem = s.mem := rfl
@[simp] theorem State.setPc_v (w : Word) : (s.setPc w).v = s.v := rfl
@[simp] theorem State.setPc_i (w : Word) : (s.setPc w).i = s.i := rfl
@[simp] theorem State.setPc_pc (w : Word) : (s.setPc w).pc = w := rfl
@[simp] theorem State.setPc_stack (w : Word) : (s.setPc w).stack = s.stack := rfl
@[simp] theorem State.setPc_sp (w : Word) : (s.setPc w).sp = s.sp := rfl
@[simp] theorem State.setPc_dt (w : Word) : (s.setPc w).dt = s.dt := rfl
@[simp] theorem State.setPc_st (w : Word) : (s.setPc w).st = s.st := rfl
@[simp] theorem State.setPc_disp (w : Word) : (s.setPc w).disp = s.disp := rfl
@[simp] theorem State.setPc_key (w : Word) : (s.setPc w).key = s.key := rfl
@[simp] theorem State.setPc_halted (w : Word) : (s.setPc w).halted = s.halted := rfl
@[simp] theorem State.setPc_params (w : Word) : (s.setPc w).params = s.params := rfl
@[simp] theorem State.setPc_draws (w : Word) : (s.setPc w).draws = s.draws := rfl
@[simp] theorem State.setPc_pending (w : Word) : (s.setPc w).pending = s.pending := rfl
@[simp] theorem State.setPc_driver (w : Word) : (s.setPc w).driver = s.driver := rfl
@[simp] theorem State.setPc_out (w : Word) : (s.setPc w).out = s.out := rfl

/-! ### setDt -/

@[simp] theorem State.setDt_mem (b : Byte) : (s.setDt b).mem = s.mem := rfl
@[simp] theorem State.setDt_v (b : Byte) : (s.setDt b).v = s.v := rfl
@[simp] theorem State.setDt_i (b : Byte) : (s.setDt b).i = s.i := rfl
@[simp] theorem State.setDt_pc (b : Byte) : (s.setDt b).pc = s.pc := rfl
@[simp] theorem State.setDt_stack (b : Byte) : (s.setDt b).stack = s.stack := rfl
@[simp] theorem State.setDt_sp (b : Byte) : (s.setDt b).sp = s.sp := rfl
@[simp] theorem State.setDt_dt (b : Byte) : (s.setDt b).dt = b := rfl
@[simp] theorem State.setDt_st (b : Byte) : (s.setDt b).st = s.st := rfl
@[simp] theorem State.setDt_disp (b : Byte) : (s.setDt b).disp = s.disp := rfl
@[simp] theorem State.setDt_key (b : Byte) : (s.setDt b).key = s.key := rfl
@[simp] theorem State.setDt_halted (b : Byte) : (s.setDt b).halted = s.halted := rfl
@[simp] theorem State.setDt_params (b : Byte) : (s.setDt b).params = s.params := rfl
@[simp] theorem State.setDt_draws (b : Byte) : (s.setDt b).draws = s.draws := rfl
@[simp] theorem State.setDt_pending (b : Byte) : (s.setDt b).pending = s.pending := rfl
@[simp] theorem State.setDt_driver (b : Byte) : (s.setDt b).driver = s.driver := rfl
@[simp] theorem State.setDt_out (b : Byte) : (s.setDt b).out = s.out := rfl

/-! ### setSt -/

@[simp] theorem State.setSt_mem (b : Byte) : (s.setSt b).mem = s.mem := rfl
@[simp] theorem State.setSt_v (b : Byte) : (s.setSt b).v = s.v := rfl
@[simp] theorem State.setSt_i (b : Byte) : (s.setSt b).i = s.i := rfl
@[simp] theorem State.setSt_pc (b : Byte) : (s.setSt b).pc = s.pc := rfl
@[simp] theorem State.setSt_stack (b : Byte) : (s.setSt b).stack = s.stack := rfl
@[simp] theorem State.setSt_sp (b : Byte) : (s.setSt b).sp = s.sp := rfl
@[simp] theorem State.setSt_dt (b : Byte) : (s.setSt b).dt = s.dt := rfl
@[simp] theorem State.setSt_st (b : Byte) : (s.setSt b).st = b := rfl
@[simp] theorem State.setSt_disp (b : Byte) : (s.setSt b).disp = s.disp := rfl
@[simp] theorem State.setSt_key (b : Byte) : (s.setSt b).key = s.key := rfl
@[simp] theorem State.setSt_halted (b : Byte) : (s.setSt b).halted = s.halted := rfl
@[simp] theorem State.setSt_params (b : Byte) : (s.setSt b).params = s.params := rfl
@[simp] theorem State.setSt_draws (b : Byte) : (s.setSt b).draws = s.draws := rfl
@[simp] theorem State.setSt_pending (b : Byte) : (s.setSt b).pending = s.pending := rfl
@[simp] theorem State.setSt_driver (b : Byte) : (s.setSt b).driver = s.driver := rfl
@[simp] theorem State.setSt_out (b : Byte) : (s.setSt b).out = s.out := rfl

/-! ### setMem -/

@[simp] theorem State.setMem_mem (m : Memory) : (s.setMem m).mem = m := rfl
@[simp] theorem State.setMem_v (m : Memory) : (s.setMem m).v = s.v := rfl
@[simp] theorem State.setMem_i (m : Memory) : (s.setMem m).i = s.i := rfl
@[simp] theorem State.setMem_pc (m : Memory) : (s.setMem m).pc = s.pc := rfl
@[simp] theorem State.setMem_stack (m : Memory) : (s.setMem m).stack = s.stack := rfl
@[simp] theorem State.setMem_sp (m : Memory) : (s.setMem m).sp = s.sp := rfl
@[simp] theorem State.setMem_dt (m : Memory) : (s.setMem m).dt = s.dt := rfl
@[simp] theorem State.setMem_st (m : Memory) : (s.setMem m).st = s.st := rfl
@[simp] theorem State.setMem_disp (m : Memory) : (s.setMem m).disp = s.disp := rfl
@[simp] theorem State.setMem_key (m : Memory) : (s.setMem m).key = s.key := rfl
@[simp] theorem State.setMem_halted (m : Memory) : (s.setMem m).halted = s.halted := rfl
@[simp] theorem State.setMem_params (m : Memory) : (s.setMem m).params = s.params := rfl
@[simp] theorem State.setMem_draws (m : Memory) : (s.setMem m).draws = s.draws := rfl
@[simp] theorem State.setMem_pending (m : Memory) : (s.setMem m).pending = s.pending := rfl
@[simp] theorem State.setMem_driver (m : Memory) : (s.setMem m).driver = s.driver := rfl
@[simp] theorem State.setMem_out (m : Memory) : (s.setMem m).out = s.out := rfl

/-! ### setDisp -/

@[simp] theorem State.setDisp_mem (d : Display) : (s.setDisp d).mem = s.mem := rfl
@[simp] theorem State.setDisp_v (d : Display) : (s.setDisp d).v = s.v := rfl
@[simp] theorem State.setDisp_i (d : Display) : (s.setDisp d).i = s.i := rfl
@[simp] theorem State.setDisp_pc (d : Display) : (s.setDisp d).pc = s.pc := rfl
@[simp] theorem State.setDisp_stack (d : Display) : (s.setDisp d).stack = s.stack := rfl
@[simp] theorem State.setDisp_sp (d : Display) : (s.setDisp d).sp = s.sp := rfl
@[simp] theorem State.setDisp_dt (d : Display) : (s.setDisp d).dt = s.dt := rfl
@[simp] theorem State.setDisp_st (d : Display) : (s.setDisp d).st = s.st := rfl
@[simp] theorem State.setDisp_disp (d : Display) : (s.setDisp d).disp = d := rfl
@[simp] theorem State.setDisp_key (d : Display) : (s.setDisp d).key = s.key := rfl
@[simp] theorem State.setDisp_halted (d : Display) : (s.setDisp d).halted = s.halted := rfl
@[simp] theorem State.setDisp_params (d : Display) : (s.setDisp d).params = s.params := rfl
@[simp] theorem State.setDisp_draws (d : Display) : (s.setDisp d).draws = s.draws := rfl
@[simp] theorem State.setDisp_pending (d : Display) : (s.setDisp d).pending = s.pending := rfl
@[simp] theorem State.setDisp_driver (d : Display) : (s.setDisp d).driver = s.driver := rfl
@[simp] theorem State.setDisp_out (d : Display) : (s.setDisp d).out = s.out := rfl

/-! ### setOut -/

@[simp] theorem State.setOut_mem (o : Output) : (s.setOut o).mem = s.mem := rfl
@[simp] theorem State.setOut_v (o : Output) : (s.setOut o).v = s.v := rfl
@[simp] theorem State.setOut_i (o : Output) : (s.setOut o).i = s.i := rfl
@[simp] theorem State.setOut_pc (o : Output) : (s.setOut o).pc = s.pc := rfl
@[simp] theorem State.setOut_stack (o : Output) : (s.setOut o).stack = s.stack := rfl
@[simp] theorem State.setOut_sp (o : Output) : (s.setOut o).sp = s.sp := rfl
@[simp] theorem State.setOut_dt (o : Output) : (s.setOut o).dt = s.dt := rfl
@[simp] theorem State.setOut_st (o : Output) : (s.setOut o).st = s.st := rfl
@[simp] theorem State.setOut_disp (o : Output) : (s.setOut o).disp = s.disp := rfl
@[simp] theorem State.setOut_key (o : Output) : (s.setOut o).key = s.key := rfl
@[simp] theorem State.setOut_halted (o : Output) : (s.setOut o).halted = s.halted := rfl
@[simp] theorem State.setOut_params (o : Output) : (s.setOut o).params = s.params := rfl
@[simp] theorem State.setOut_draws (o : Output) : (s.setOut o).draws = s.draws := rfl
@[simp] theorem State.setOut_pending (o : Output) : (s.setOut o).pending = s.pending := rfl
@[simp] theorem State.setOut_driver (o : Output) : (s.setOut o).driver = s.driver := rfl
@[simp] theorem State.setOut_out (o : Output) : (s.setOut o).out = o := rfl

/-! ### setV -/

@[simp] theorem State.setV_mem (v : Vector Byte 16) : (s.setV v).mem = s.mem := rfl
@[simp] theorem State.setV_v (v : Vector Byte 16) : (s.setV v).v = v := rfl
@[simp] theorem State.setV_i (v : Vector Byte 16) : (s.setV v).i = s.i := rfl
@[simp] theorem State.setV_pc (v : Vector Byte 16) : (s.setV v).pc = s.pc := rfl
@[simp] theorem State.setV_stack (v : Vector Byte 16) : (s.setV v).stack = s.stack := rfl
@[simp] theorem State.setV_sp (v : Vector Byte 16) : (s.setV v).sp = s.sp := rfl
@[simp] theorem State.setV_dt (v : Vector Byte 16) : (s.setV v).dt = s.dt := rfl
@[simp] theorem State.setV_st (v : Vector Byte 16) : (s.setV v).st = s.st := rfl
@[simp] theorem State.setV_disp (v : Vector Byte 16) : (s.setV v).disp = s.disp := rfl
@[simp] theorem State.setV_key (v : Vector Byte 16) : (s.setV v).key = s.key := rfl
@[simp] theorem State.setV_halted (v : Vector Byte 16) : (s.setV v).halted = s.halted := rfl
@[simp] theorem State.setV_params (v : Vector Byte 16) : (s.setV v).params = s.params := rfl
@[simp] theorem State.setV_draws (v : Vector Byte 16) : (s.setV v).draws = s.draws := rfl
@[simp] theorem State.setV_pending (v : Vector Byte 16) : (s.setV v).pending = s.pending := rfl
@[simp] theorem State.setV_driver (v : Vector Byte 16) : (s.setV v).driver = s.driver := rfl
@[simp] theorem State.setV_out (v : Vector Byte 16) : (s.setV v).out = s.out := rfl

/-! ### countDraw -/

@[simp] theorem State.countDraw_mem : s.countDraw.mem = s.mem := rfl
@[simp] theorem State.countDraw_v : s.countDraw.v = s.v := rfl
@[simp] theorem State.countDraw_i : s.countDraw.i = s.i := rfl
@[simp] theorem State.countDraw_pc : s.countDraw.pc = s.pc := rfl
@[simp] theorem State.countDraw_stack : s.countDraw.stack = s.stack := rfl
@[simp] theorem State.countDraw_sp : s.countDraw.sp = s.sp := rfl
@[simp] theorem State.countDraw_dt : s.countDraw.dt = s.dt := rfl
@[simp] theorem State.countDraw_st : s.countDraw.st = s.st := rfl
@[simp] theorem State.countDraw_disp : s.countDraw.disp = s.disp := rfl
@[simp] theorem State.countDraw_key : s.countDraw.key = s.key := rfl
@[simp] theorem State.countDraw_halted : s.countDraw.halted = s.halted := rfl
@[simp] theorem State.countDraw_params : s.countDraw.params = s.params := rfl
@[simp] theorem State.countDraw_draws : s.countDraw.draws = s.draws + 1 := rfl
@[simp] theorem State.countDraw_pending : s.countDraw.pending = s.pending := rfl
@[simp] theorem State.countDraw_driver : s.countDraw.driver = s.driver := rfl
@[simp] theorem State.countDraw_out : s.countDraw.out = s.out := rfl

/-! ### setFlag -/

@[simp] theorem State.setFlag_mem (f : Bool) : (s.setFlag f).mem = s.mem := rfl
@[simp] theorem State.setFlag_v (f : Bool) : (s.setFlag f).v = s.v.set regF.val (if f then 1#8 else 0#8) regF.isLt := rfl
@[simp] theorem State.setFlag_i (f : Bool) : (s.setFlag f).i = s.i := rfl
@[simp] theorem State.setFlag_pc (f : Bool) : (s.setFlag f).pc = s.pc := rfl
@[simp] theorem State.setFlag_stack (f : Bool) : (s.setFlag f).stack = s.stack := rfl
@[simp] theorem State.setFlag_sp (f : Bool) : (s.setFlag f).sp = s.sp := rfl
@[simp] theorem State.setFlag_dt (f : Bool) : (s.setFlag f).dt = s.dt := rfl
@[simp] theorem State.setFlag_st (f : Bool) : (s.setFlag f).st = s.st := rfl
@[simp] theorem State.setFlag_disp (f : Bool) : (s.setFlag f).disp = s.disp := rfl
@[simp] theorem State.setFlag_key (f : Bool) : (s.setFlag f).key = s.key := rfl
@[simp] theorem State.setFlag_halted (f : Bool) : (s.setFlag f).halted = s.halted := rfl
@[simp] theorem State.setFlag_params (f : Bool) : (s.setFlag f).params = s.params := rfl
@[simp] theorem State.setFlag_draws (f : Bool) : (s.setFlag f).draws = s.draws := rfl
@[simp] theorem State.setFlag_pending (f : Bool) : (s.setFlag f).pending = s.pending := rfl
@[simp] theorem State.setFlag_driver (f : Bool) : (s.setFlag f).driver = s.driver := rfl
@[simp] theorem State.setFlag_out (f : Bool) : (s.setFlag f).out = s.out := rfl

/-! ### advance -/

@[simp] theorem State.advance_mem : s.advance.mem = s.mem := rfl
@[simp] theorem State.advance_v : s.advance.v = s.v := rfl
@[simp] theorem State.advance_i : s.advance.i = s.i := rfl
@[simp] theorem State.advance_pc : s.advance.pc = s.pc + instrSize := rfl
@[simp] theorem State.advance_stack : s.advance.stack = s.stack := rfl
@[simp] theorem State.advance_sp : s.advance.sp = s.sp := rfl
@[simp] theorem State.advance_dt : s.advance.dt = s.dt := rfl
@[simp] theorem State.advance_st : s.advance.st = s.st := rfl
@[simp] theorem State.advance_disp : s.advance.disp = s.disp := rfl
@[simp] theorem State.advance_key : s.advance.key = s.key := rfl
@[simp] theorem State.advance_halted : s.advance.halted = s.halted := rfl
@[simp] theorem State.advance_params : s.advance.params = s.params := rfl
@[simp] theorem State.advance_draws : s.advance.draws = s.draws := rfl
@[simp] theorem State.advance_pending : s.advance.pending = s.pending := rfl
@[simp] theorem State.advance_driver : s.advance.driver = s.driver := rfl
@[simp] theorem State.advance_out : s.advance.out = s.out := rfl

/-! ### pushPc -/

@[simp] theorem State.pushPc_mem (k : Fin 16) : (s.pushPc k).mem = s.mem := rfl
@[simp] theorem State.pushPc_v (k : Fin 16) : (s.pushPc k).v = s.v := rfl
@[simp] theorem State.pushPc_i (k : Fin 16) : (s.pushPc k).i = s.i := rfl
@[simp] theorem State.pushPc_pc (k : Fin 16) : (s.pushPc k).pc = s.pc := rfl
@[simp] theorem State.pushPc_stack (k : Fin 16) : (s.pushPc k).stack = s.stack.set k.val s.pc k.isLt := rfl
@[simp] theorem State.pushPc_sp (k : Fin 16) : (s.pushPc k).sp = s.sp + 1#8 := rfl
@[simp] theorem State.pushPc_dt (k : Fin 16) : (s.pushPc k).dt = s.dt := rfl
@[simp] theorem State.pushPc_st (k : Fin 16) : (s.pushPc k).st = s.st := rfl
@[simp] theorem State.pushPc_disp (k : Fin 16) : (s.pushPc k).disp = s.disp := rfl
@[simp] theorem State.pushPc_key (k : Fin 16) : (s.pushPc k).key = s.key := rfl
@[simp] theorem State.pushPc_halted (k : Fin 16) : (s.pushPc k).halted = s.halted := rfl
@[simp] theorem State.pushPc_params (k : Fin 16) : (s.pushPc k).params = s.params := rfl
@[simp] theorem State.pushPc_draws (k : Fin 16) : (s.pushPc k).draws = s.draws := rfl
@[simp] theorem State.pushPc_pending (k : Fin 16) : (s.pushPc k).pending = s.pending := rfl
@[simp] theorem State.pushPc_driver (k : Fin 16) : (s.pushPc k).driver = s.driver := rfl
@[simp] theorem State.pushPc_out (k : Fin 16) : (s.pushPc k).out = s.out := rfl

/-! ### popPc -/

@[simp] theorem State.popPc_mem (k : Fin 16) : (s.popPc k).mem = s.mem := rfl
@[simp] theorem State.popPc_v (k : Fin 16) : (s.popPc k).v = s.v := rfl
@[simp] theorem State.popPc_i (k : Fin 16) : (s.popPc k).i = s.i := rfl
@[simp] theorem State.popPc_pc (k : Fin 16) : (s.popPc k).pc = s.stack.get k := rfl
@[simp] theorem State.popPc_stack (k : Fin 16) : (s.popPc k).stack = s.stack := rfl
@[simp] theorem State.popPc_sp (k : Fin 16) : (s.popPc k).sp = BitVec.ofNat 8 k.val := rfl
@[simp] theorem State.popPc_dt (k : Fin 16) : (s.popPc k).dt = s.dt := rfl
@[simp] theorem State.popPc_st (k : Fin 16) : (s.popPc k).st = s.st := rfl
@[simp] theorem State.popPc_disp (k : Fin 16) : (s.popPc k).disp = s.disp := rfl
@[simp] theorem State.popPc_key (k : Fin 16) : (s.popPc k).key = s.key := rfl
@[simp] theorem State.popPc_halted (k : Fin 16) : (s.popPc k).halted = s.halted := rfl
@[simp] theorem State.popPc_params (k : Fin 16) : (s.popPc k).params = s.params := rfl
@[simp] theorem State.popPc_draws (k : Fin 16) : (s.popPc k).draws = s.draws := rfl
@[simp] theorem State.popPc_pending (k : Fin 16) : (s.popPc k).pending = s.pending := rfl
@[simp] theorem State.popPc_driver (k : Fin 16) : (s.popPc k).driver = s.driver := rfl
@[simp] theorem State.popPc_out (k : Fin 16) : (s.popPc k).out = s.out := rfl

/-! ### writeResultFlag -/

@[simp] theorem State.writeResultFlag_mem (x : Reg) (b : Byte) (f : Bool) : (s.writeResultFlag x b f).mem = s.mem := rfl
@[simp] theorem State.writeResultFlag_v (x : Reg) (b : Byte) (f : Bool) : (s.writeResultFlag x b f).v = ((s.setReg x b).setFlag f).v := rfl
@[simp] theorem State.writeResultFlag_i (x : Reg) (b : Byte) (f : Bool) : (s.writeResultFlag x b f).i = s.i := rfl
@[simp] theorem State.writeResultFlag_pc (x : Reg) (b : Byte) (f : Bool) : (s.writeResultFlag x b f).pc = s.pc := rfl
@[simp] theorem State.writeResultFlag_stack (x : Reg) (b : Byte) (f : Bool) : (s.writeResultFlag x b f).stack = s.stack := rfl
@[simp] theorem State.writeResultFlag_sp (x : Reg) (b : Byte) (f : Bool) : (s.writeResultFlag x b f).sp = s.sp := rfl
@[simp] theorem State.writeResultFlag_dt (x : Reg) (b : Byte) (f : Bool) : (s.writeResultFlag x b f).dt = s.dt := rfl
@[simp] theorem State.writeResultFlag_st (x : Reg) (b : Byte) (f : Bool) : (s.writeResultFlag x b f).st = s.st := rfl
@[simp] theorem State.writeResultFlag_disp (x : Reg) (b : Byte) (f : Bool) : (s.writeResultFlag x b f).disp = s.disp := rfl
@[simp] theorem State.writeResultFlag_key (x : Reg) (b : Byte) (f : Bool) : (s.writeResultFlag x b f).key = s.key := rfl
@[simp] theorem State.writeResultFlag_halted (x : Reg) (b : Byte) (f : Bool) : (s.writeResultFlag x b f).halted = s.halted := rfl
@[simp] theorem State.writeResultFlag_params (x : Reg) (b : Byte) (f : Bool) : (s.writeResultFlag x b f).params = s.params := rfl
@[simp] theorem State.writeResultFlag_draws (x : Reg) (b : Byte) (f : Bool) : (s.writeResultFlag x b f).draws = s.draws := rfl
@[simp] theorem State.writeResultFlag_pending (x : Reg) (b : Byte) (f : Bool) : (s.writeResultFlag x b f).pending = s.pending := rfl
@[simp] theorem State.writeResultFlag_driver (x : Reg) (b : Byte) (f : Bool) : (s.writeResultFlag x b f).driver = s.driver := rfl
@[simp] theorem State.writeResultFlag_out (x : Reg) (b : Byte) (f : Bool) : (s.writeResultFlag x b f).out = s.out := rfl

/-! ### recordFatal -/

@[simp] theorem State.recordFatal_mem (c : Fatal) : (s.recordFatal c).mem = s.mem := rfl
@[simp] theorem State.recordFatal_v (c : Fatal) : (s.recordFatal c).v = s.v := rfl
@[simp] theorem State.recordFatal_i (c : Fatal) : (s.recordFatal c).i = s.i := rfl
@[simp] theorem State.recordFatal_pc (c : Fatal) : (s.recordFatal c).pc = s.pc := rfl
@[simp] theorem State.recordFatal_stack (c : Fatal) : (s.recordFatal c).stack = s.stack := rfl
@[simp] theorem State.recordFatal_sp (c : Fatal) : (s.recordFatal c).sp = s.sp := rfl
@[simp] theorem State.recordFatal_dt (c : Fatal) : (s.recordFatal c).dt = s.dt := rfl
@[simp] theorem State.recordFatal_st (c : Fatal) : (s.recordFatal c).st = s.st := rfl
@[simp] theorem State.recordFatal_disp (c : Fatal) : (s.recordFatal c).disp = s.disp := rfl
@[simp] theorem State.recordFatal_key (c : Fatal) : (s.recordFatal c).key = s.key := rfl
@[simp] theorem State.recordFatal_halted (c : Fatal) : (s.recordFatal c).halted = some c := rfl
@[simp] theorem State.recordFatal_params (c : Fatal) : (s.recordFatal c).params = s.params := rfl
@[simp] theorem State.recordFatal_draws (c : Fatal) : (s.recordFatal c).draws = s.draws := rfl
@[simp] theorem State.recordFatal_pending (c : Fatal) : (s.recordFatal c).pending = s.pending := rfl
@[simp] theorem State.recordFatal_driver (c : Fatal) : (s.recordFatal c).driver = s.driver := rfl
@[simp] theorem State.recordFatal_out (c : Fatal) : (s.recordFatal c).out =
    { result := .status (.fatal c), report := some (.fatal c) } := rfl

/-! ### stayHalted -/

@[simp] theorem State.stayHalted_mem (c : Fatal) : (s.stayHalted c).mem = s.mem := rfl
@[simp] theorem State.stayHalted_v (c : Fatal) : (s.stayHalted c).v = s.v := rfl
@[simp] theorem State.stayHalted_i (c : Fatal) : (s.stayHalted c).i = s.i := rfl
@[simp] theorem State.stayHalted_pc (c : Fatal) : (s.stayHalted c).pc = s.pc := rfl
@[simp] theorem State.stayHalted_stack (c : Fatal) : (s.stayHalted c).stack = s.stack := rfl
@[simp] theorem State.stayHalted_sp (c : Fatal) : (s.stayHalted c).sp = s.sp := rfl
@[simp] theorem State.stayHalted_dt (c : Fatal) : (s.stayHalted c).dt = s.dt := rfl
@[simp] theorem State.stayHalted_st (c : Fatal) : (s.stayHalted c).st = s.st := rfl
@[simp] theorem State.stayHalted_disp (c : Fatal) : (s.stayHalted c).disp = s.disp := rfl
@[simp] theorem State.stayHalted_key (c : Fatal) : (s.stayHalted c).key = s.key := rfl
@[simp] theorem State.stayHalted_halted (c : Fatal) : (s.stayHalted c).halted = s.halted := rfl
@[simp] theorem State.stayHalted_params (c : Fatal) : (s.stayHalted c).params = s.params := rfl
@[simp] theorem State.stayHalted_draws (c : Fatal) : (s.stayHalted c).draws = s.draws := rfl
@[simp] theorem State.stayHalted_pending (c : Fatal) : (s.stayHalted c).pending = s.pending := rfl
@[simp] theorem State.stayHalted_driver (c : Fatal) : (s.stayHalted c).driver = s.driver := rfl
@[simp] theorem State.stayHalted_out (c : Fatal) : (s.stayHalted c).out =
    { result := .status (.fatal c), report := none } := rfl

/-! ### pressKey -/

@[simp] theorem State.pressKey_mem (k : KeyIx) (b : Bool) : (s.pressKey k b).mem = s.mem := rfl
@[simp] theorem State.pressKey_v (k : KeyIx) (b : Bool) : (s.pressKey k b).v = s.v := rfl
@[simp] theorem State.pressKey_i (k : KeyIx) (b : Bool) : (s.pressKey k b).i = s.i := rfl
@[simp] theorem State.pressKey_pc (k : KeyIx) (b : Bool) : (s.pressKey k b).pc = s.pc := rfl
@[simp] theorem State.pressKey_stack (k : KeyIx) (b : Bool) : (s.pressKey k b).stack = s.stack := rfl
@[simp] theorem State.pressKey_sp (k : KeyIx) (b : Bool) : (s.pressKey k b).sp = s.sp := rfl
@[simp] theorem State.pressKey_dt (k : KeyIx) (b : Bool) : (s.pressKey k b).dt = s.dt := rfl
@[simp] theorem State.pressKey_st (k : KeyIx) (b : Bool) : (s.pressKey k b).st = s.st := rfl
@[simp] theorem State.pressKey_disp (k : KeyIx) (b : Bool) : (s.pressKey k b).disp = s.disp := rfl
@[simp] theorem State.pressKey_key (k : KeyIx) (b : Bool) : (s.pressKey k b).key = s.key.set k.val b k.isLt := rfl
@[simp] theorem State.pressKey_halted (k : KeyIx) (b : Bool) : (s.pressKey k b).halted = s.halted := rfl
@[simp] theorem State.pressKey_params (k : KeyIx) (b : Bool) : (s.pressKey k b).params = s.params := rfl
@[simp] theorem State.pressKey_draws (k : KeyIx) (b : Bool) : (s.pressKey k b).draws = s.draws := rfl
@[simp] theorem State.pressKey_pending (k : KeyIx) (b : Bool) : (s.pressKey k b).pending = s.pending := rfl
@[simp] theorem State.pressKey_driver (k : KeyIx) (b : Bool) : (s.pressKey k b).driver = s.driver := rfl
@[simp] theorem State.pressKey_out (k : KeyIx) (b : Bool) : (s.pressKey k b).out = Output.plain .done := rfl

/-! ### readOut -/

@[simp] theorem State.readOut_mem : s.readOut.mem = s.mem := rfl
@[simp] theorem State.readOut_v : s.readOut.v = s.v := rfl
@[simp] theorem State.readOut_i : s.readOut.i = s.i := rfl
@[simp] theorem State.readOut_pc : s.readOut.pc = s.pc := rfl
@[simp] theorem State.readOut_stack : s.readOut.stack = s.stack := rfl
@[simp] theorem State.readOut_sp : s.readOut.sp = s.sp := rfl
@[simp] theorem State.readOut_dt : s.readOut.dt = s.dt := rfl
@[simp] theorem State.readOut_st : s.readOut.st = s.st := rfl
@[simp] theorem State.readOut_disp : s.readOut.disp = s.disp := rfl
@[simp] theorem State.readOut_key : s.readOut.key = s.key := rfl
@[simp] theorem State.readOut_halted : s.readOut.halted = s.halted := rfl
@[simp] theorem State.readOut_params : s.readOut.params = s.params := rfl
@[simp] theorem State.readOut_draws : s.readOut.draws = s.draws := rfl
@[simp] theorem State.readOut_pending : s.readOut.pending = s.pending := rfl
@[simp] theorem State.readOut_driver : s.readOut.driver = s.driver := rfl
@[simp] theorem State.readOut_out : s.readOut.out = Output.plain (.display (Display.flat s.disp)) := rfl

/-! ### loadFont -/

@[simp] theorem State.loadFont_mem (font : Vector Byte 80) : (s.loadFont font).mem = s.mem.withFont font := rfl
@[simp] theorem State.loadFont_v (font : Vector Byte 80) : (s.loadFont font).v = s.v := rfl
@[simp] theorem State.loadFont_i (font : Vector Byte 80) : (s.loadFont font).i = s.i := rfl
@[simp] theorem State.loadFont_pc (font : Vector Byte 80) : (s.loadFont font).pc = s.pc := rfl
@[simp] theorem State.loadFont_stack (font : Vector Byte 80) : (s.loadFont font).stack = s.stack := rfl
@[simp] theorem State.loadFont_sp (font : Vector Byte 80) : (s.loadFont font).sp = s.sp := rfl
@[simp] theorem State.loadFont_dt (font : Vector Byte 80) : (s.loadFont font).dt = s.dt := rfl
@[simp] theorem State.loadFont_st (font : Vector Byte 80) : (s.loadFont font).st = s.st := rfl
@[simp] theorem State.loadFont_disp (font : Vector Byte 80) : (s.loadFont font).disp = s.disp := rfl
@[simp] theorem State.loadFont_key (font : Vector Byte 80) : (s.loadFont font).key = s.key := rfl
@[simp] theorem State.loadFont_halted (font : Vector Byte 80) : (s.loadFont font).halted = s.halted := rfl
@[simp] theorem State.loadFont_params (font : Vector Byte 80) : (s.loadFont font).params = s.params := rfl
@[simp] theorem State.loadFont_draws (font : Vector Byte 80) : (s.loadFont font).draws = s.draws := rfl
@[simp] theorem State.loadFont_pending (font : Vector Byte 80) : (s.loadFont font).pending = s.pending := rfl
@[simp] theorem State.loadFont_driver (font : Vector Byte 80) : (s.loadFont font).driver = s.driver := rfl
@[simp] theorem State.loadFont_out (font : Vector Byte 80) : (s.loadFont font).out = Output.plain .done := rfl

/-! ### resetRegisters -/

@[simp] theorem State.resetRegisters_mem : s.resetRegisters.mem = s.mem := rfl
@[simp] theorem State.resetRegisters_v : s.resetRegisters.v = Vector.replicate 16 0#8 := rfl
@[simp] theorem State.resetRegisters_i : s.resetRegisters.i = 0#16 := rfl
@[simp] theorem State.resetRegisters_pc : s.resetRegisters.pc = 0x200#16 := rfl
@[simp] theorem State.resetRegisters_stack : s.resetRegisters.stack = Vector.replicate 16 0#16 := rfl
@[simp] theorem State.resetRegisters_sp : s.resetRegisters.sp = 0#8 := rfl
@[simp] theorem State.resetRegisters_dt : s.resetRegisters.dt = 0#8 := rfl
@[simp] theorem State.resetRegisters_st : s.resetRegisters.st = 0#8 := rfl
@[simp] theorem State.resetRegisters_disp : s.resetRegisters.disp = s.disp := rfl
@[simp] theorem State.resetRegisters_key : s.resetRegisters.key = s.key := rfl
@[simp] theorem State.resetRegisters_halted : s.resetRegisters.halted = s.halted := rfl
@[simp] theorem State.resetRegisters_params : s.resetRegisters.params = s.params := rfl
@[simp] theorem State.resetRegisters_draws : s.resetRegisters.draws = s.draws := rfl
@[simp] theorem State.resetRegisters_pending : s.resetRegisters.pending = s.pending := rfl
@[simp] theorem State.resetRegisters_driver : s.resetRegisters.driver = s.driver := rfl
@[simp] theorem State.resetRegisters_out : s.resetRegisters.out = Output.plain .done := rfl

/-! ### tick and loadProgram -/

@[simp] theorem State.tick_mem : s.tick.mem = s.mem := by
  unfold State.tick; split <;> rfl
@[simp] theorem State.tick_v : s.tick.v = s.v := by
  unfold State.tick; split <;> rfl
@[simp] theorem State.tick_i : s.tick.i = s.i := by
  unfold State.tick; split <;> rfl
@[simp] theorem State.tick_pc : s.tick.pc = s.pc := by
  unfold State.tick; split <;> rfl
@[simp] theorem State.tick_stack : s.tick.stack = s.stack := by
  unfold State.tick; split <;> rfl
@[simp] theorem State.tick_sp : s.tick.sp = s.sp := by
  unfold State.tick; split <;> rfl
@[simp] theorem State.tick_disp : s.tick.disp = s.disp := by
  unfold State.tick; split <;> rfl
@[simp] theorem State.tick_key : s.tick.key = s.key := by
  unfold State.tick; split <;> rfl
@[simp] theorem State.tick_halted : s.tick.halted = s.halted := by
  unfold State.tick; split <;> rfl
@[simp] theorem State.tick_params : s.tick.params = s.params := by
  unfold State.tick; split <;> rfl
@[simp] theorem State.tick_draws : s.tick.draws = s.draws := by
  unfold State.tick; split <;> rfl
@[simp] theorem State.tick_pending : s.tick.pending = s.pending := by
  unfold State.tick; split <;> rfl
@[simp] theorem State.tick_driver : s.tick.driver = s.driver := by
  unfold State.tick; split <;> rfl
@[simp] theorem State.loadProgram_v (image : List Byte) : (s.loadProgram image).v = s.v := by
  unfold State.loadProgram; split <;> rfl
@[simp] theorem State.loadProgram_i (image : List Byte) : (s.loadProgram image).i = s.i := by
  unfold State.loadProgram; split <;> rfl
@[simp] theorem State.loadProgram_pc (image : List Byte) : (s.loadProgram image).pc = s.pc := by
  unfold State.loadProgram; split <;> rfl
@[simp] theorem State.loadProgram_stack (image : List Byte) : (s.loadProgram image).stack = s.stack := by
  unfold State.loadProgram; split <;> rfl
@[simp] theorem State.loadProgram_sp (image : List Byte) : (s.loadProgram image).sp = s.sp := by
  unfold State.loadProgram; split <;> rfl
@[simp] theorem State.loadProgram_dt (image : List Byte) : (s.loadProgram image).dt = s.dt := by
  unfold State.loadProgram; split <;> rfl
@[simp] theorem State.loadProgram_st (image : List Byte) : (s.loadProgram image).st = s.st := by
  unfold State.loadProgram; split <;> rfl
@[simp] theorem State.loadProgram_disp (image : List Byte) : (s.loadProgram image).disp = s.disp := by
  unfold State.loadProgram; split <;> rfl
@[simp] theorem State.loadProgram_key (image : List Byte) : (s.loadProgram image).key = s.key := by
  unfold State.loadProgram; split <;> rfl
@[simp] theorem State.loadProgram_halted (image : List Byte) : (s.loadProgram image).halted = s.halted := by
  unfold State.loadProgram; split <;> rfl
@[simp] theorem State.loadProgram_params (image : List Byte) : (s.loadProgram image).params = s.params := by
  unfold State.loadProgram; split <;> rfl
@[simp] theorem State.loadProgram_draws (image : List Byte) : (s.loadProgram image).draws = s.draws := by
  unfold State.loadProgram; split <;> rfl
@[simp] theorem State.loadProgram_pending (image : List Byte) : (s.loadProgram image).pending = s.pending := by
  unfold State.loadProgram; split <;> rfl
@[simp] theorem State.loadProgram_driver (image : List Byte) : (s.loadProgram image).driver = s.driver := by
  unfold State.loadProgram; split <;> rfl

/-! ### skipIf and writeLogic -/

@[simp] theorem State.skipIf_pc (c : Bool) :
    (s.skipIf c).pc = if c then s.pc + instrSize else s.pc := by cases c <;> rfl
@[simp] theorem State.skipIf_mem (c : Bool) : (s.skipIf c).mem = s.mem := by cases c <;> rfl
@[simp] theorem State.skipIf_v (c : Bool) : (s.skipIf c).v = s.v := by cases c <;> rfl
@[simp] theorem State.skipIf_i (c : Bool) : (s.skipIf c).i = s.i := by cases c <;> rfl
@[simp] theorem State.skipIf_stack (c : Bool) : (s.skipIf c).stack = s.stack := by cases c <;> rfl
@[simp] theorem State.skipIf_sp (c : Bool) : (s.skipIf c).sp = s.sp := by cases c <;> rfl
@[simp] theorem State.skipIf_dt (c : Bool) : (s.skipIf c).dt = s.dt := by cases c <;> rfl
@[simp] theorem State.skipIf_st (c : Bool) : (s.skipIf c).st = s.st := by cases c <;> rfl
@[simp] theorem State.skipIf_disp (c : Bool) : (s.skipIf c).disp = s.disp := by cases c <;> rfl
@[simp] theorem State.skipIf_key (c : Bool) : (s.skipIf c).key = s.key := by cases c <;> rfl
@[simp] theorem State.skipIf_halted (c : Bool) : (s.skipIf c).halted = s.halted := by cases c <;> rfl
@[simp] theorem State.skipIf_params (c : Bool) : (s.skipIf c).params = s.params := by cases c <;> rfl
@[simp] theorem State.skipIf_draws (c : Bool) : (s.skipIf c).draws = s.draws := by cases c <;> rfl
@[simp] theorem State.skipIf_pending (c : Bool) : (s.skipIf c).pending = s.pending := by cases c <;> rfl
@[simp] theorem State.skipIf_driver (c : Bool) : (s.skipIf c).driver = s.driver := by cases c <;> rfl
@[simp] theorem State.skipIf_out (c : Bool) : (s.skipIf c).out = s.out := by cases c <;> rfl
@[simp] theorem State.writeLogic_mem (x : Reg) (b : Byte) : (s.writeLogic x b).mem = s.mem := by
  unfold State.writeLogic; split <;> rfl
@[simp] theorem State.writeLogic_i (x : Reg) (b : Byte) : (s.writeLogic x b).i = s.i := by
  unfold State.writeLogic; split <;> rfl
@[simp] theorem State.writeLogic_pc (x : Reg) (b : Byte) : (s.writeLogic x b).pc = s.pc := by
  unfold State.writeLogic; split <;> rfl
@[simp] theorem State.writeLogic_stack (x : Reg) (b : Byte) : (s.writeLogic x b).stack = s.stack := by
  unfold State.writeLogic; split <;> rfl
@[simp] theorem State.writeLogic_sp (x : Reg) (b : Byte) : (s.writeLogic x b).sp = s.sp := by
  unfold State.writeLogic; split <;> rfl
@[simp] theorem State.writeLogic_dt (x : Reg) (b : Byte) : (s.writeLogic x b).dt = s.dt := by
  unfold State.writeLogic; split <;> rfl
@[simp] theorem State.writeLogic_st (x : Reg) (b : Byte) : (s.writeLogic x b).st = s.st := by
  unfold State.writeLogic; split <;> rfl
@[simp] theorem State.writeLogic_disp (x : Reg) (b : Byte) : (s.writeLogic x b).disp = s.disp := by
  unfold State.writeLogic; split <;> rfl
@[simp] theorem State.writeLogic_key (x : Reg) (b : Byte) : (s.writeLogic x b).key = s.key := by
  unfold State.writeLogic; split <;> rfl
@[simp] theorem State.writeLogic_halted (x : Reg) (b : Byte) : (s.writeLogic x b).halted = s.halted := by
  unfold State.writeLogic; split <;> rfl
@[simp] theorem State.writeLogic_params (x : Reg) (b : Byte) : (s.writeLogic x b).params = s.params := by
  unfold State.writeLogic; split <;> rfl
@[simp] theorem State.writeLogic_draws (x : Reg) (b : Byte) : (s.writeLogic x b).draws = s.draws := by
  unfold State.writeLogic; split <;> rfl
@[simp] theorem State.writeLogic_pending (x : Reg) (b : Byte) : (s.writeLogic x b).pending = s.pending := by
  unfold State.writeLogic; split <;> rfl
@[simp] theorem State.writeLogic_driver (x : Reg) (b : Byte) : (s.writeLogic x b).driver = s.driver := by
  unfold State.writeLogic; split <;> rfl
@[simp] theorem State.writeLogic_out (x : Reg) (b : Byte) : (s.writeLogic x b).out = s.out := by
  unfold State.writeLogic; split <;> rfl

/-! ### takeOp: only the schedule changes -/

@[simp] theorem State.takeOp_mem : s.takeOp.mem = s.mem := rfl
@[simp] theorem State.takeOp_v : s.takeOp.v = s.v := rfl
@[simp] theorem State.takeOp_i : s.takeOp.i = s.i := rfl
@[simp] theorem State.takeOp_pc : s.takeOp.pc = s.pc := rfl
@[simp] theorem State.takeOp_stack : s.takeOp.stack = s.stack := rfl
@[simp] theorem State.takeOp_sp : s.takeOp.sp = s.sp := rfl
@[simp] theorem State.takeOp_dt : s.takeOp.dt = s.dt := rfl
@[simp] theorem State.takeOp_st : s.takeOp.st = s.st := rfl
@[simp] theorem State.takeOp_disp : s.takeOp.disp = s.disp := rfl
@[simp] theorem State.takeOp_key : s.takeOp.key = s.key := rfl
@[simp] theorem State.takeOp_halted : s.takeOp.halted = s.halted := rfl
@[simp] theorem State.takeOp_params : s.takeOp.params = s.params := rfl
@[simp] theorem State.takeOp_draws : s.takeOp.draws = s.draws := rfl
@[simp] theorem State.takeOp_out : s.takeOp.out = s.out := rfl
@[simp] theorem State.takeOp_reg (x : Reg) : s.takeOp.reg x = s.reg x := rfl
@[simp] theorem State.takeOp_keyDown (k : KeyIx) : s.takeOp.keyDown k = s.keyDown k := rfl
@[simp] theorem State.takeOp_fetch : s.takeOp.fetch = s.fetch := rfl

/-- The first operation listed comes next. -/
theorem State.nextOp_pending {s : State} {op : Operation} {rest : List Operation} (h : s.pending = op :: rest) :
    s.nextOp = op := by
  simp only [State.nextOp, h]

/-- It is taken from the list. -/
theorem State.takeOp_pending {s : State} {op : Operation} {rest : List Operation} (h : s.pending = op :: rest) :
    s.takeOp = { s with pending := rest } := by
  simp only [State.takeOp, h, List.tail_cons]

end Sys2Proof.Machine
end

