-- ==== Sys2Proof/Laws/Memory.lean ====
section
/-!
SUPPORT. The laws of memory: a read after a write, and that every memory operation keeps the canonical form.
-/
namespace Sys2Proof.Machine

/-! ### Reading -/

@[simp] theorem Memory.read_nil (a : Nat) : Memory.read [] a = initialByte a := rfl

theorem Memory.read_cons (c : Host.Cell) (m : Memory) (a : Nat) :
    Memory.read (c :: m) a = if c.1 = a then c.2 else m.read a := rfl

/-- Erasing the entry of an address makes it read as at creation, and touches no other address. -/
theorem Memory.read_erase (m : Memory) (a k : Nat) :
    (m.erase a).read k = if k = a then initialByte k else m.read k := by
  induction m with
  | nil => simp [Memory.erase]
  | cons c rest ih =>
    by_cases hc : c.1 = a
    · rw [show Memory.erase (c :: rest) a = Memory.erase rest a by simp [Memory.erase, hc], ih,
        Memory.read_cons]
      by_cases hk : k = a
      · simp [hk]
      · simp [hk, show c.1 ≠ k by omega]
    · rw [show Memory.erase (c :: rest) a = c :: Memory.erase rest a by simp [Memory.erase, hc],
        Memory.read_cons, Memory.read_cons, ih]
      by_cases hk : c.1 = k
      · simp [hk, show k ≠ a by omega]
      · simp [hk]

/-- Where no entry has its address, an inserted entry is what that address reads. -/
theorem Memory.read_insertCell (c : Host.Cell) (m : Memory) (h : ∀ d ∈ m, d.1 ≠ c.1) (k : Nat) :
    (insertCell c m).read k = if c.1 = k then c.2 else m.read k := by
  induction m with
  | nil => rfl
  | cons d rest ih =>
    have hd : d.1 ≠ c.1 := h d (by simp)
    have ih := ih fun e he => h e (by simp [he])
    unfold insertCell
    split
    · rfl
    · rw [Memory.read_cons, ih, Memory.read_cons]
      by_cases hk : d.1 = k
      · simp [hk, show c.1 ≠ k by omega]
      · simp [hk]

theorem Memory.erase_ne (m : Memory) (a : Nat) : ∀ d ∈ m.erase a, d.1 ≠ a := by
  intro d hd
  simpa using (List.mem_filter.mp hd).2

/-- A read after a write: the byte written at its address, every other byte as before (20_memory.md R63, R69, R72). -/
theorem Memory.read_write (m : Memory) (a : Nat) (b : Byte) (k : Nat) :
    (m.write a b).read k = if k = a then b else m.read k := by
  unfold Memory.write
  split
  · next hb => rw [Memory.read_erase]; split
               · next hk => rw [hk, hb]
               · rfl
  · rw [Memory.read_insertCell _ _ (m.erase_ne a), Memory.read_erase]
    by_cases hk : k = a
    · simp [hk]
    · simp [hk, show a ≠ k by omega]

@[simp] theorem Memory.read_write_same (m : Memory) (a : Nat) (b : Byte) : (m.write a b).read a = b := by
  simp [Memory.read_write]

theorem Memory.read_write_other (m : Memory) {a k : Nat} (b : Byte) (h : k ≠ a) :
    (m.write a b).read k = m.read k := by simp [Memory.read_write, h]

@[simp] theorem Memory.writeBytes_nil (m : Memory) (a : Nat) : m.writeBytes a [] = m := rfl

@[simp] theorem Memory.writeBytes_cons (m : Memory) (a : Nat) (b : Byte) (bs : List Byte) :
    m.writeBytes a (b :: bs) = (m.write a b).writeBytes (a + 1) bs := rfl

/-- A byte outside the ones written reads as before. -/
theorem Memory.read_writeBytes_outside (m : Memory) (a : Nat) (bs : List Byte) (k : Nat)
    (h : k < a ∨ a + bs.length ≤ k) : (m.writeBytes a bs).read k = m.read k := by
  induction bs generalizing m a with
  | nil => rfl
  | cons b bs ih =>
    simp only [List.length_cons] at h
    rw [Memory.writeBytes_cons, ih _ _ (by omega), Memory.read_write_other _ _ (by omega)]

/-- The `j`-th byte written is what its address reads. -/
theorem Memory.read_writeBytes_at (m : Memory) (a : Nat) (bs : List Byte) (j : Nat) (h : j < bs.length) :
    (m.writeBytes a bs).read (a + j) = bs[j] := by
  induction bs generalizing m a j with
  | nil => simp at h
  | cons b bs ih =>
    cases j with
    | zero => rw [Memory.writeBytes_cons, Memory.read_writeBytes_outside _ _ _ _ (by omega)]; simp
    | succ j =>
      have hj : j < bs.length := by simpa using h
      simpa [Nat.add_assoc, Nat.add_comm 1 j] using ih (m.write a b) (a + 1) j hj

@[simp] theorem Memory.readBytes_length (m : Memory) (a n : Nat) : (m.readBytes a n).length = n := by
  simp [Memory.readBytes]

@[simp] theorem Memory.readBytes_getElem (m : Memory) (a n j : Nat) (h : j < (m.readBytes a n).length) :
    (m.readBytes a n)[j] = m.read (a + j) := by
  simp [Memory.readBytes]

/-! ### The canonical form -/

theorem Memory.wf_nil : Memory.wf [] := by simp [Memory.wf]

theorem Memory.wf_cons {c : Host.Cell} {m : Memory} :
    Memory.wf (c :: m) ↔
      (∀ d ∈ m, c.1 < d.1) ∧ (c.1 ≤ lastAddress ∧ c.2 ≠ initialByte c.1) ∧ m.wf := by
  simp only [Memory.wf, List.map_cons, List.pairwise_cons, List.mem_cons, forall_eq_or_imp, List.mem_map,
    forall_exists_index, and_imp, forall_apply_eq_imp_iff₂]
  tauto

theorem Memory.wf_erase {m : Memory} (h : m.wf) (a : Nat) : (m.erase a).wf := by
  constructor
  · exact h.1.sublist (List.filter_sublist.map _)
  · intro c hc
    exact h.2 c (List.mem_filter.mp hc).1

theorem mem_insertCell {c d : Host.Cell} {m : Memory} (h : d ∈ insertCell c m) : d = c ∨ d ∈ m := by
  induction m with
  | nil => simpa [insertCell] using h
  | cons e rest ih =>
    unfold insertCell at h
    split at h
    · simpa using h
    · simp only [List.mem_cons] at h ⊢
      rcases h with h | h
      · exact .inr (.inl h)
      · rcases ih h with h | h
        · exact .inl h
        · exact .inr (.inr h)

theorem Memory.wf_insertCell {c : Host.Cell} {m : Memory} (h : m.wf) (ha : c.1 ≤ lastAddress)
    (hb : c.2 ≠ initialByte c.1) (hn : ∀ d ∈ m, d.1 ≠ c.1) : (insertCell c m).wf := by
  induction m with
  | nil => exact Memory.wf_cons.mpr ⟨by simp, ⟨ha, hb⟩, Memory.wf_nil⟩
  | cons d rest ih =>
    obtain ⟨hlt, hd, hrest⟩ := Memory.wf_cons.mp h
    have hdc : d.1 ≠ c.1 := hn d (by simp)
    unfold insertCell
    split
    · next hcd =>
      refine Memory.wf_cons.mpr ⟨?_, ⟨ha, hb⟩, h⟩
      intro e he
      rcases List.mem_cons.mp he with rfl | he
      · exact hcd
      · exact hcd.trans (hlt e he)
    · refine Memory.wf_cons.mpr ⟨?_, hd, ih hrest fun e he => hn e (by simp [he])⟩
      intro e he
      rcases mem_insertCell he with rfl | he
      · omega
      · exact hlt e he

/-- A write inside the address space keeps the canonical form. -/
theorem Memory.wf_write {m : Memory} (h : m.wf) {a : Nat} (ha : a ≤ lastAddress) (b : Byte) : (m.write a b).wf := by
  unfold Memory.write
  split
  · exact Memory.wf_erase h a
  · next hb => exact Memory.wf_insertCell (Memory.wf_erase h a) ha hb (m.erase_ne a)

/-- Writing bytes inside the address space keeps the canonical form. -/
theorem Memory.wf_writeBytes {m : Memory} (h : m.wf) (a : Nat) (bs : List Byte)
    (ha : a + bs.length ≤ lastAddress + 1) : (m.writeBytes a bs).wf := by
  induction bs generalizing m a with
  | nil => exact h
  | cons b bs ih =>
    simp only [List.length_cons] at ha
    exact ih (Memory.wf_write h (by omega) b) (a + 1) (by omega)

/-- Loading a font keeps the canonical form. -/
theorem Memory.wf_withFont {m : Memory} (h : m.wf) (font : Vector Byte 80) : (m.withFont font).wf :=
  Memory.wf_writeBytes h 0 _ (by simp [lastAddress])

/-- Loading a program image keeps the canonical form, whatever its length. -/
theorem Memory.wf_withImage {m m' : Memory} (h : m.wf) (policy : LoaderOversize) (image : List Byte)
    (hm : m.withImage policy image = some m') : m'.wf := by
  unfold Memory.withImage at hm
  split at hm
  · next hl =>
    obtain rfl := Option.some.inj hm
    exact Memory.wf_writeBytes h _ _ (by simp only [maxImage] at hl; simp [lastAddress, loadAddress]; omega)
  · split at hm
    · obtain rfl := Option.some.inj hm
      exact Memory.wf_writeBytes h _ _ (by
        simp [lastAddress, loadAddress, maxImage]; omega)
    · simp at hm

/-- The memory at session creation is canonical. -/
theorem State.reset_mem_wf : State.reset.mem.wf := Memory.wf_nil

end Sys2Proof.Machine
end

