-- ==== Sys2Proof/Laws/Ops.lean ====
section
/-!
SUPPORT. One lemma per shared operation, saying all it can do; proofs about meanings cite these instead of unfolding.
-/
namespace Sys2Proof.Machine

/-! ### Registers -/

/-- Reading a register after writing one. -/
theorem State.reg_setReg (s : State) (x r : Reg) (b : Byte) :
    (s.setReg x b).reg r = if r = x then b else s.reg r := by
  simp only [State.reg, State.setReg, Vector.get_eq_getElem, Vector.getElem_set]
  by_cases h : r = x
  · simp [h]
  · have : ¬ x.val = r.val := fun hv => h (Fin.ext hv.symm)
    simp [h, this]

@[simp] theorem State.reg_setReg_same (s : State) (x : Reg) (b : Byte) : (s.setReg x b).reg x = b := by
  simp [State.reg_setReg]

@[simp] theorem State.reg_setI (s : State) (w : Word) (r : Reg) : (s.setI w).reg r = s.reg r := rfl
@[simp] theorem State.reg_setPc (s : State) (w : Word) (r : Reg) : (s.setPc w).reg r = s.reg r := rfl
@[simp] theorem State.reg_setDt (s : State) (b : Byte) (r : Reg) : (s.setDt b).reg r = s.reg r := rfl
@[simp] theorem State.reg_setSt (s : State) (b : Byte) (r : Reg) : (s.setSt b).reg r = s.reg r := rfl
@[simp] theorem State.reg_setMem (s : State) (m : Memory) (r : Reg) : (s.setMem m).reg r = s.reg r := rfl
@[simp] theorem State.reg_setDisp (s : State) (d : Display) (r : Reg) : (s.setDisp d).reg r = s.reg r := rfl
@[simp] theorem State.reg_setOut (s : State) (o : Output) (r : Reg) : (s.setOut o).reg r = s.reg r := rfl
@[simp] theorem State.reg_countDraw (s : State) (r : Reg) : s.countDraw.reg r = s.reg r := rfl
@[simp] theorem State.reg_advance (s : State) (r : Reg) : s.advance.reg r = s.reg r := rfl
@[simp] theorem State.reg_pushPc (s : State) (k : Fin 16) (r : Reg) : (s.pushPc k).reg r = s.reg r := rfl
@[simp] theorem State.reg_popPc (s : State) (k : Fin 16) (r : Reg) : (s.popPc k).reg r = s.reg r := rfl
@[simp] theorem State.reg_skipIf (s : State) (c : Bool) (r : Reg) : (s.skipIf c).reg r = s.reg r := by
  simp [State.reg]

/-- Reading a register after writing the flag (10_state.md R22). -/
theorem State.reg_setFlag (s : State) (f : Bool) (r : Reg) :
    (s.setFlag f).reg r = if r = regF then (if f then 1#8 else 0#8) else s.reg r := by
  simp [State.setFlag, State.reg_setReg]

/-- Reading a register after a result and then its flag: the flag wins VF (41_alu.md R132). -/
theorem State.reg_writeResultFlag (s : State) (x : Reg) (b : Byte) (f : Bool) (r : Reg) :
    (s.writeResultFlag x b f).reg r =
      if r = regF then (if f then 1#8 else 0#8) else if r = x then b else s.reg r := by
  simp [State.writeResultFlag, State.reg_setFlag, State.reg_setReg]

/-- Reading a register after a logic operation (41_alu.md R134). -/
theorem State.reg_writeLogic (s : State) (x : Reg) (b : Byte) (r : Reg) :
    (s.writeLogic x b).reg r =
      if r = regF ∧ s.params.logicVfQuirk = .reset then 0#8 else if r = x then b else s.reg r := by
  unfold State.writeLogic
  split
  · next h => simp [h, State.reg_setReg]
  · next h => simp [h, State.reg_setFlag, State.reg_setReg]

/-- Reading a register after FX65's run of loads (42_index_memory.md R175). -/
theorem State.reg_loadedRegs (s : State) (x r : Reg) :
    (s.setV (s.loadedRegs x)).reg r =
      if r.val ≤ x.val then s.mem.read (s.i.toNat + r.val) else s.reg r := by
  simp [State.reg, State.loadedRegs, State.setV, Vector.get_eq_getElem]

@[simp] theorem State.regRun_length (s : State) (x : Reg) : (s.regRun x).length = x.val + 1 := by
  simp [State.regRun]

/-- The `k`-th byte that FX55 stores is V[k] (42_index_memory.md R174). -/
theorem State.regRun_getElem (s : State) (x k : Reg) (h : k.val < (s.regRun x).length) :
    (s.regRun x)[k.val] = s.reg k := by
  simp [State.regRun, State.reg, Vector.get_eq_getElem]

/-! ### The stack -/

/-- A stack slot after a push (40_control_flow.md R103). -/
theorem State.stack_pushPc (s : State) (k j : Fin 16) :
    (s.pushPc k).stack.get j = if j.val = k.val then s.pc else s.stack.get j := by
  simp only [State.pushPc, Vector.get_eq_getElem, Vector.getElem_set]
  by_cases h : j.val = k.val
  · simp [h]
  · simp [h, show ¬ k.val = j.val by omega]

/-! ### Keys -/

/-- A key after setKey (60_exceptions.md R264). -/
theorem State.keyDown_pressKey (s : State) (k j : KeyIx) (b : Bool) :
    (s.pressKey k b).keyDown j = if j = k then b else s.keyDown j := by
  simp only [State.keyDown, State.pressKey, Vector.get_eq_getElem, Vector.getElem_set]
  by_cases h : j = k
  · simp [h]
  · have : ¬ k.val = j.val := fun hv => h (Fin.ext hv.symm)
    simp [h, this]

/-- No key is found exactly where none is down. -/
theorem State.firstKey_eq_none (s : State) : s.firstKey = none ↔ ∀ k : KeyIx, s.keyDown k = false := by
  simp [State.firstKey, List.find?_eq_none]

/-- The key found is the lowest one that is down (44_input_timers.md R222). -/
theorem State.firstKey_eq_some (s : State) (k : KeyIx) :
    s.firstKey = some k ↔ s.keyDown k = true ∧ ∀ j : KeyIx, j < k → s.keyDown j = false := by
  have hs : (List.finRange 16).Pairwise (· < ·) := by decide
  constructor
  · intro h
    obtain ⟨hk, as, bs, hl, has⟩ := List.find?_eq_some_iff_append.mp h
    refine ⟨hk, fun j hj => ?_⟩
    have hmem : j ∈ as := by
      have hj' : j ∈ as ++ k :: bs := hl ▸ List.mem_finRange j
      rw [hl] at hs
      rcases List.mem_append.mp hj' with h' | h'
      · exact h'
      · rcases List.mem_cons.mp h' with rfl | h'
        · exact absurd hj (lt_irrefl _)
        · have := (List.pairwise_cons.mp (List.pairwise_append.mp hs).2.1).1 j h'
          exact absurd hj (not_lt.mpr this.le)
    simpa using has j hmem
  · rintro ⟨hk, hlow⟩
    cases hf : s.firstKey with
    | none => simp [(s.firstKey_eq_none.mp hf) k] at hk
    | some j =>
      have hj : s.keyDown j = true := List.find?_some hf
      obtain ⟨-, as, bs, hl, has⟩ := List.find?_eq_some_iff_append.mp hf
      rcases lt_trichotomy j k with h | h | h
      · simp [hlow j h] at hj
      · rw [h]
      · have hk' : k ∈ as ++ j :: bs := hl ▸ List.mem_finRange k
        rw [hl] at hs
        rcases List.mem_append.mp hk' with h' | h'
        · have := has k h'
          simp [hk] at this
        · rcases List.mem_cons.mp h' with rfl | h'
          · rfl
          · have := (List.pairwise_cons.mp (List.pairwise_append.mp hs).2.1).1 k h'
            exact absurd h (not_lt.mpr this.le)

/-! ### Completion, conditions and checks -/

/-- An instruction that completes answers its state with status OK, and nothing else. -/
theorem State.complete_eq (s : State) : s.complete = .next (s.setOut Output.ok) := rfl

/-- Setting the output keeps every part of the state. -/
theorem OthersKept.setOut (s : State) (o : Output) : OthersKept [] s (s.setOut o) := by
  intro p _
  cases p <;> simp [Part.same, State.keyDown]

/-- Raising a fatal condition sets `halted`, reports, and keeps the rest (60_exceptions.md R245). -/
theorem State.raiseFatal_spec (s : State) (c : Fatal) : RaisesFatal (s.raiseFatal c) s c := by
  refine ⟨_, rfl, rfl, rfl, ?_⟩
  intro p hp
  cases p <;> simp_all [Part.same, State.reg, State.keyDown]

/-- Raising UnknownOpcode reports the word and P, and keeps the rest (60_exceptions.md R241). -/
theorem State.raiseUnknown_spec (s : State) (w : Word) : RaisesUnknown (s.raiseUnknown w) s w s.instrAddr :=
  ⟨_, rfl, rfl, OthersKept.setOut s _⟩

/-- An access whose range is inside the memory goes on. -/
theorem State.withRange_inside (s : State) (kind : AccessKind) (base count : Nat) (k : State → StepResult)
    (h : count = 0 ∨ base + count - 1 ≤ lastAddress) : s.withRange kind base count k = k s :=
  if_neg (by omega)

/-- An access whose range passes 0xFFF raises OutOfBoundsAccess with the lowest address above it (D16). -/
theorem State.withRange_outside (s : State) (kind : AccessKind) (base count : Nat) (k : State → StepResult)
    (h0 : count ≠ 0) (h : lastAddress < base + count - 1) :
    s.withRange kind base count k =
      s.raiseFatal (.outOfBounds kind (max base (lastAddress + 1)) s.instrAddr) :=
  if_pos (by omega)

/-- What a checked access can answer: its continuation, or the raised condition. -/
theorem State.withRange_cases (s : State) (kind : AccessKind) (base count : Nat) (k : State → StepResult) :
    (s.withRange kind base count k = k s ∧ (count = 0 ∨ base + count - 1 ≤ lastAddress)) ∨
      ∃ c, s.withRange kind base count k = s.raiseFatal c := by
  by_cases h : count = 0 ∨ base + count - 1 ≤ lastAddress
  · exact .inl ⟨s.withRange_inside kind base count k h, h⟩
  · exact .inr ⟨_, s.withRange_outside kind base count k (by omega) (by omega)⟩

/-- A key index in 0..15 goes on with that key. -/
theorem State.withKey_legal (s : State) (x : Reg) (f : KeyIx → StepResult) (k : KeyIx)
    (h : (s.reg x).toNat = k.val) : s.withKey x f = f k := by
  unfold State.withKey
  rw [dif_pos (by omega)]
  congr 1
  exact Fin.ext h

/-- A key index above 15 raises OutOfBoundsAccess of kind key. -/
theorem State.withKey_illegal (s : State) (x : Reg) (f : KeyIx → StepResult) (h : 15 < (s.reg x).toNat) :
    s.withKey x f = s.raiseFatal (.outOfBounds .key (s.reg x).toNat s.instrAddr) :=
  dif_neg (by omega)

/-- What a checked key access can answer. -/
theorem State.withKey_cases (s : State) (x : Reg) (f : KeyIx → StepResult) :
    (∃ k, s.withKey x f = f k) ∨ ∃ c, s.withKey x f = s.raiseFatal c := by
  by_cases h : (s.reg x).toNat < 16
  · exact .inl ⟨_, s.withKey_legal x f ⟨_, h⟩ rfl⟩
  · exact .inr ⟨_, s.withKey_illegal x f (by omega)⟩

/-- A fetch in bounds is the word of the two bytes at PC (20_memory.md R64). -/
theorem State.fetch_inside (s : State) (h : s.pc.toNat + 1 ≤ lastAddress) :
    s.fetch = some (wordOfBytes (s.mem.read s.pc.toNat) (s.mem.read (s.pc.toNat + 1))) :=
  if_neg (by omega)

/-- There is no fetch exactly where PC + 1 passes 0xFFF. -/
theorem State.fetch_eq_none (s : State) : s.fetch = none ↔ lastAddress < s.pc.toNat + 1 := by
  unfold State.fetch
  split <;> simp_all

/-- The fetch depends on PC and on what the memory reads, alone (20_memory.md R75). -/
theorem State.fetch_congr {s t : State} (hpc : t.pc = s.pc) (hm : ∀ a, t.mem.read a = s.mem.read a) :
    t.fetch = s.fetch := by
  simp [State.fetch, hpc, hm]

/-! ### The host's operations -/

/-- A timer after a tick, never below 0 (60_exceptions.md R254). -/
theorem countDown_toNat (t : Byte) : (countDown t).toNat = t.toNat - 1 := by
  unfold countDown
  split
  · next h => simp [h]
  · next h =>
    have : t.toNat ≠ 0 := fun h' => h (BitVec.eq_of_toNat_eq h')
    have := t.isLt
    simp [BitVec.toNat_sub]
    omega

/-- No operation but `executeOne()` clears or sets `halted` (10_state.md R38). -/
theorem State.perform_halted {op : Operation} {s t : State} (hop : op ≠ .executeOne) (h : s.perform op = .next t) :
    t.halted = s.halted := by
  cases op with
  | executeOne => exact absurd rfl hop
  | _ => cases h; simp

/-- Every operation but `executeOne()`, of which `exec_shape` speaks, keeps the memory's canonical form. -/
theorem State.perform_mem_wf {op : Operation} {s t : State} (hop : op ≠ .executeOne) (h : s.perform op = .next t)
    (hs : s.mem.wf) : t.mem.wf := by
  cases op with
  | executeOne => exact absurd rfl hop
  | loadFont f => cases h; exact Memory.wf_withFont hs f
  | loadProgram im =>
    cases h
    simp only [State.loadProgram]
    split
    · next m hm => exact Memory.wf_withImage hs _ _ hm
    · exact hs
  | tick => cases h; simpa using hs
  | _ => cases h; exact hs

/-! ### Display cells -/

/-- A cell of the cleared display. -/
theorem Display.cell_clear (px : Fin 64) (py : Fin 32) : Display.cell Display.clear px py = false := by
  simp [Display.cell, Display.clear, Vector.get_eq_getElem]

/-- A cell after one cell is written. -/
theorem Display.cell_setCell (d : Display) (px qx : Fin 64) (py qy : Fin 32) (b : Bool) :
    Display.cell (Display.setCell d px py b) qx qy =
      if qx = px ∧ qy = py then b else Display.cell d qx qy := by
  simp only [Display.cell, Display.setCell, Vector.get_eq_getElem, Vector.getElem_set]
  by_cases hy : qy = py
  · subst hy
    by_cases hx : qx = px
    · subst hx; simp
    · have : ¬ px.val = qx.val := fun hv => hx (Fin.ext hv.symm)
      simp [hx, this]
  · have : ¬ py.val = qy.val := fun hv => hy (Fin.ext hv.symm)
    simp [hy, this]

/-- A cell after one sprite bit: toggled where it is the bit's cell (43_display.md R201). -/
theorem cell_drawPixel (px qx : Fin 64) (py qy : Fin 32) (a : Drawing) :
    Display.cell (drawPixel px py a).1 qx qy =
      if qx = px ∧ qy = py then !Display.cell a.1 qx qy else Display.cell a.1 qx qy := by
  unfold drawPixel
  rw [Display.cell_setCell]
  split
  · next h => rw [h.1, h.2]
  · rfl

/-! ### Loaders -/

/-- The memory after a font load (60_exceptions.md R263). -/
theorem Memory.read_withFont (m : Memory) (font : Vector Byte 80) (a : Nat) :
    (m.withFont font).read a = if h : a < 80 then font.get ⟨a, h⟩ else m.read a := by
  unfold Memory.withFont
  split
  · next h =>
    have := Memory.read_writeBytes_at m 0 font.toList a (by simpa using h)
    simpa [Vector.get_eq_getElem] using this
  · next h => exact Memory.read_writeBytes_outside m 0 _ a (by simp; omega)

/-- Above the font an unlisted address reads 0 (10_state.md R41). -/
theorem initialByte_above_font (a : Nat) (h : 80 ≤ a) : initialByte a = 0#8 := by
  unfold initialByte
  rw [dif_neg (by omega)]
  rfl

end Sys2Proof.Machine
end

