-- ==== Sys2Proof/Laws/Display.lean ====
section
/-!
SUPPORT. What drawing a sprite can do, said once per function: which cells it toggles and when it collides
(43_display.md R201).
-/
namespace Sys2Proof.Machine

/-- A set sprite bit of one of the columns falls on the cell (43_display.md R201). -/
def ColumnsCover (xs ys : Byte) (row : Nat) (b : Byte) (cols : List Nat) (px : Fin 64) (py : Fin 32) : Prop :=
  ∃ col ∈ cols, spriteBit b col = true ∧ wrapX xs col = px ∧ wrapY ys row = py

/-- Drawing columns toggles exactly the covered cells, and collides exactly where a covered cell is set: no two columns
of a sprite reach one cell. -/
theorem drawColumns_spec (xs ys : Byte) (row : Nat) (b : Byte) (cols : List Nat) (hb : ∀ c ∈ cols, c < 8)
    (hn : cols.Nodup) (a : Drawing) :
    (∀ px py,
      (ColumnsCover xs ys row b cols px py →
        Display.cell (drawColumns xs ys row b cols a).1 px py = !Display.cell a.1 px py) ∧
      (¬ ColumnsCover xs ys row b cols px py →
        Display.cell (drawColumns xs ys row b cols a).1 px py = Display.cell a.1 px py)) ∧
    ((drawColumns xs ys row b cols a).2 = true ↔
      a.2 = true ∨ ∃ px py, ColumnsCover xs ys row b cols px py ∧ Display.cell a.1 px py = true) := by
  induction cols generalizing a with
  | nil => simp [drawColumns, ColumnsCover]
  | cons c cs ih =>
    have hcs : ∀ c' ∈ cs, c' < 8 := fun c' h => hb c' (by simp [h])
    have hc : c < 8 := hb c (by simp)
    have hnd := (List.nodup_cons.mp hn).2
    have hnm := (List.nodup_cons.mp hn).1
    by_cases hbit : spriteBit b c = true
    · have e : drawColumns xs ys row b (c :: cs) a =
          drawColumns xs ys row b cs (drawPixel (wrapX xs c) (wrapY ys row) a) := by
        simp [drawColumns, hbit]
      obtain ⟨h1, h2⟩ := ih hcs hnd (drawPixel (wrapX xs c) (wrapY ys row) a)
      have hdis : ¬ ColumnsCover xs ys row b cs (wrapX xs c) (wrapY ys row) := by
        rintro ⟨c', hm, _, hx, _⟩
        have hc' := hcs c' hm
        have : c' = c := by
          have := congrArg Fin.val hx
          simp [wrapX, Fin.ofNat] at this
          omega
        exact hnm (this ▸ hm)
      have hiff : ∀ px py, ColumnsCover xs ys row b (c :: cs) px py ↔
          (px = wrapX xs c ∧ py = wrapY ys row) ∨ ColumnsCover xs ys row b cs px py := by
        intro px py
        constructor
        · rintro ⟨c', hm, hb', hx, hy⟩
          rcases List.mem_cons.mp hm with rfl | hm
          · exact .inl ⟨hx.symm, hy.symm⟩
          · exact .inr ⟨c', hm, hb', hx, hy⟩
        · rintro (⟨rfl, rfl⟩ | ⟨c', hm, h⟩)
          · exact ⟨c, by simp, hbit, rfl, rfl⟩
          · exact ⟨c', by simp [hm], h⟩
      rw [e]
      constructor
      · intro px py
        rw [hiff]
        by_cases hp : px = wrapX xs c ∧ py = wrapY ys row
        · obtain ⟨rfl, rfl⟩ := hp
          simp [(h1 _ _).2 hdis, cell_drawPixel]
        · constructor
          · rintro (h | h)
            · exact absurd h hp
            · rw [(h1 px py).1 h, cell_drawPixel, if_neg hp]
          · intro h
            rw [not_or] at h
            rw [(h1 px py).2 h.2, cell_drawPixel, if_neg hp]
      · rw [h2]
        simp only [hiff, drawPixel, Bool.or_eq_true]
        constructor
        · rintro ((h | h) | ⟨px, py, hb', h⟩)
          · exact .inl h
          · exact .inr ⟨_, _, .inl ⟨rfl, rfl⟩, h⟩
          · refine .inr ⟨px, py, .inr hb', ?_⟩
            rw [Display.cell_setCell] at h
            split at h
            · next hpp => exact absurd (hpp.1 ▸ hpp.2 ▸ hb') hdis
            · exact h
        · rintro (h | ⟨px, py, (⟨rfl, rfl⟩ | hb'), h⟩)
          · exact .inl (.inl h)
          · exact .inl (.inr h)
          · refine .inr ⟨px, py, hb', ?_⟩
            rw [Display.cell_setCell, if_neg]
            · exact h
            · rintro ⟨rfl, rfl⟩; exact hdis hb'
    · have e : drawColumns xs ys row b (c :: cs) a = drawColumns xs ys row b cs a := by
        simp [drawColumns, hbit]
      have hiff : ∀ px py,
          ColumnsCover xs ys row b (c :: cs) px py ↔ ColumnsCover xs ys row b cs px py := by
        intro px py
        constructor
        · rintro ⟨c', hm, hb', h⟩
          rcases List.mem_cons.mp hm with rfl | hm
          · exact absurd hb' hbit
          · exact ⟨c', hm, hb', h⟩
        · rintro ⟨c', hm, h⟩; exact ⟨c', by simp [hm], h⟩
      rw [e]; simp only [hiff]
      exact ih hcs hnd a

/-- A set sprite bit of one of the rows falls on the cell (43_display.md R201). -/
def RowsCover (xs ys : Byte) (row : Nat) (bs : List Byte) (px : Fin 64) (py : Fin 32) : Prop :=
  ∃ j, ∃ h : j < bs.length, ColumnsCover xs ys (row + j) bs[j] (List.range 8) px py

/-- Drawing rows toggles exactly the covered cells, and collides exactly where a covered cell is set: no two rows of a
sprite reach one cell. -/
theorem drawRows_spec (xs ys : Byte) (row : Nat) (bs : List Byte) (hl : bs.length ≤ 32) (a : Drawing) :
    (∀ px py,
      (RowsCover xs ys row bs px py →
        Display.cell (drawRows xs ys row bs a).1 px py = !Display.cell a.1 px py) ∧
      (¬ RowsCover xs ys row bs px py →
        Display.cell (drawRows xs ys row bs a).1 px py = Display.cell a.1 px py)) ∧
    ((drawRows xs ys row bs a).2 = true ↔
      a.2 = true ∨ ∃ px py, RowsCover xs ys row bs px py ∧ Display.cell a.1 px py = true) := by
  induction bs generalizing row a with
  | nil => simp [drawRows, RowsCover]
  | cons b bs ih =>
    have hl' : bs.length < 32 := by simp at hl; omega
    obtain ⟨c1, c2⟩ := drawColumns_spec xs ys row b (List.range 8) (by simp) List.nodup_range a
    obtain ⟨h1, h2⟩ := ih (row + 1) (by omega) (drawRow xs ys row b a)
    have hiff : ∀ px py, RowsCover xs ys row (b :: bs) px py ↔
        ColumnsCover xs ys row b (List.range 8) px py ∨ RowsCover xs ys (row + 1) bs px py := by
      intro px py
      constructor
      · rintro ⟨j, hj, h⟩
        cases j with
        | zero => exact .inl h
        | succ j => exact .inr ⟨j, by simpa using hj, by simpa [Nat.add_assoc, Nat.add_comm 1 j] using h⟩
      · rintro (h | ⟨j, hj, h⟩)
        · exact ⟨0, by simp, h⟩
        · exact ⟨j + 1, by simpa using hj, by simpa [Nat.add_assoc, Nat.add_comm 1 j] using h⟩
    have hdis : ∀ px py, ColumnsCover xs ys row b (List.range 8) px py →
        ¬ RowsCover xs ys (row+1) bs px py := by
      rintro px py ⟨c, _, _, _, hy⟩ ⟨j, hj, c', _, _, _, hy'⟩
      have := congrArg Fin.val (hy.trans hy'.symm)
      simp [wrapY, Fin.ofNat] at this
      omega
    have e : drawRows xs ys row (b :: bs) a = drawRows xs ys (row+1) bs (drawRow xs ys row b a) := rfl
    rw [e]
    constructor
    · intro px py
      rw [hiff]
      by_cases hb : ColumnsCover xs ys row b (List.range 8) px py
      · have e2 : Display.cell (drawRow xs ys row b a).1 px py = !Display.cell a.1 px py := (c1 px py).1 hb
        exact ⟨fun _ => ((h1 px py).2 (hdis px py hb)).trans e2, fun h => absurd (Or.inl hb) h⟩
      · simp only [hb, false_or]
        have e2 : Display.cell (drawRow xs ys row b a).1 px py = Display.cell a.1 px py := (c1 px py).2 hb
        rw [← e2]; exact h1 px py
    · rw [h2]
      have e3 : (drawRow xs ys row b a).2 = true ↔ a.2 = true ∨
          ∃ px py, ColumnsCover xs ys row b (List.range 8) px py ∧ Display.cell a.1 px py = true := c2
      rw [e3]
      simp only [hiff]
      constructor
      · rintro ((h | ⟨px, py, hb, h⟩) | ⟨px, py, hb, h⟩)
        · exact .inl h
        · exact .inr ⟨px, py, .inl hb, h⟩
        · refine .inr ⟨px, py, .inr hb, ?_⟩
          have : ¬ ColumnsCover xs ys row b (List.range 8) px py := fun hh => hdis px py hh hb
          rw [← (c1 px py).2 this]; exact h
      · rintro (h | ⟨px, py, (hb | hb), h⟩)
        · exact .inl (.inl h)
        · exact .inl (.inr ⟨px, py, hb, h⟩)
        · refine .inr ⟨px, py, hb, ?_⟩
          have : ¬ ColumnsCover xs ys row b (List.range 8) px py := fun hh => hdis px py hh hb
          have := (c1 px py).2 this
          exact this.trans h

/-- A sprite covers a cell in the words of the claims exactly where its rows do. -/
theorem spriteCovers_iff (s : State) (x y : Reg) (n : Fin 16) (px : Fin 64) (py : Fin 32) :
    SpriteCovers s x y n px py ↔
      RowsCover (s.reg x) (s.reg y) 0 (s.mem.readBytes s.i.toNat n.val) px py := by
  constructor
  · rintro ⟨row, col, hr, hc, hb, hx, hy⟩
    refine ⟨row, by simpa using hr, col, by simpa using hc, by simpa [spriteBit] using hb, ?_, ?_⟩
    · apply Fin.ext; simp [wrapX, Fin.ofNat, hx]
    · apply Fin.ext; simp [wrapY, Fin.ofNat, hy]
  · rintro ⟨row, hr, col, hc, hb, hx, hy⟩
    refine ⟨row, col, by simpa using hr, by simpa using hc, by simpa [spriteBit] using hb, ?_, ?_⟩
    · rw [← hx]; simp [wrapX, Fin.ofNat]
    · rw [← hy]; simp [wrapY, Fin.ofNat]

end Sys2Proof.Machine
end

