-- ==== Sys2Proof/Laws/Encoding.lean ====
section
/-!
SUPPORT. The fields of a packed instruction word (30_encoding.md R81, R82), and the bytes of a word.
-/
namespace Sys2Proof

theorem toNat_packNNN (f : BitVec 4) (nnn : Addr12) : (packNNN f nnn).toNat = f.toNat * 4096 + nnn.toNat := by
  have h := nnn.isLt
  simp only [packNNN, BitVec.toNat_append]
  rw [← Nat.shiftLeft_add_eq_or_of_lt h, Nat.shiftLeft_eq]

theorem toNat_packXNN (f : BitVec 4) (x : Reg) (nn : Byte) :
    (packXNN f x nn).toNat = f.toNat * 4096 + x.val * 256 + nn.toNat := by
  have h := nn.isLt
  have hx : (nibble x ++ nn).toNat = x.val * 256 + nn.toNat := by
    rw [BitVec.toNat_append, ← Nat.shiftLeft_add_eq_or_of_lt h, Nat.shiftLeft_eq]; rfl
  have hlt : (nibble x ++ nn).toNat < 2 ^ (4 + 8) := (nibble x ++ nn).isLt
  simp only [packXNN, BitVec.toNat_append f]
  rw [← Nat.shiftLeft_add_eq_or_of_lt hlt, Nat.shiftLeft_eq, hx]
  omega

theorem toNat_packXYN (f : BitVec 4) (x y : Reg) (n : BitVec 4) :
    (packXYN f x y n).toNat = f.toNat * 4096 + x.val * 256 + y.val * 16 + n.toNat := by
  have h := n.isLt
  have hy : (nibble y ++ n).toNat = y.val * 16 + n.toNat := by
    rw [BitVec.toNat_append, ← Nat.shiftLeft_add_eq_or_of_lt h, Nat.shiftLeft_eq]; rfl
  have hylt : (nibble y ++ n).toNat < 2 ^ (4 + 4) := (nibble y ++ n).isLt
  have hx : (nibble x ++ (nibble y ++ n)).toNat = x.val * 256 + (y.val * 16 + n.toNat) := by
    rw [BitVec.toNat_append, ← Nat.shiftLeft_add_eq_or_of_lt hylt, Nat.shiftLeft_eq, hy]; rfl
  have hlt : (nibble x ++ (nibble y ++ n)).toNat < 2 ^ (4 + (4 + 4)) := (nibble x ++ (nibble y ++ n)).isLt
  simp only [packXYN, BitVec.toNat_append f]
  rw [← Nat.shiftLeft_add_eq_or_of_lt hlt, Nat.shiftLeft_eq, hx]
  omega

/-! ### The fields as quotients and remainders -/

theorem fieldF_toNat (w : Word) : (fieldF w).toNat = w.toNat / 4096 := by
  have := w.isLt
  simp only [fieldF, BitVec.extractLsb'_toNat, Nat.shiftRight_eq_div_pow]; omega

theorem fieldX_val (w : Word) : (fieldX w).val = w.toNat / 256 % 16 := by
  simp only [fieldX, BitVec.val_toFin, BitVec.extractLsb'_toNat, Nat.shiftRight_eq_div_pow]

theorem fieldY_val (w : Word) : (fieldY w).val = w.toNat / 16 % 16 := by
  simp only [fieldY, BitVec.val_toFin, BitVec.extractLsb'_toNat, Nat.shiftRight_eq_div_pow]

theorem fieldN_toNat (w : Word) : (fieldN w).toNat = w.toNat % 16 := by
  simp only [fieldN, BitVec.extractLsb'_toNat, Nat.shiftRight_eq_div_pow]; omega

theorem fieldNN_toNat (w : Word) : (fieldNN w).toNat = w.toNat % 256 := by
  simp only [fieldNN, BitVec.extractLsb'_toNat, Nat.shiftRight_eq_div_pow]; omega

theorem fieldNNN_toNat (w : Word) : (fieldNNN w).toNat = w.toNat % 4096 := by
  simp only [fieldNNN, BitVec.extractLsb'_toNat, Nat.shiftRight_eq_div_pow]; omega

theorem firstByte_toNat (w : Word) : (firstByte w).toNat = w.toNat / 256 := by
  have := w.isLt
  simp only [firstByte, BitVec.extractLsb'_toNat, Nat.shiftRight_eq_div_pow]; omega

theorem secondByte_toNat (w : Word) : (secondByte w).toNat = w.toNat % 256 := by
  simp only [secondByte, BitVec.extractLsb'_toNat, Nat.shiftRight_eq_div_pow]; omega

theorem wordOfBytes_toNat (a b : Byte) : (wordOfBytes a b).toNat = 256 * a.toNat + b.toNat := by
  have h := b.isLt
  simp only [wordOfBytes, BitVec.toNat_append]
  rw [← Nat.shiftLeft_add_eq_or_of_lt h, Nat.shiftLeft_eq]
  omega

/-- A word is the word of its two bytes (20_memory.md R65). -/
@[simp] theorem wordOfBytes_bytes (w : Word) : wordOfBytes (firstByte w) (secondByte w) = w := by
  apply BitVec.eq_of_toNat_eq
  rw [wordOfBytes_toNat, firstByte_toNat, secondByte_toNat]
  omega

/-! ### The fields of a packed word -/

@[simp] theorem fieldF_packNNN (f : BitVec 4) (nnn : Addr12) : fieldF (packNNN f nnn) = f := by
  apply BitVec.eq_of_toNat_eq
  have := nnn.isLt
  rw [fieldF_toNat, toNat_packNNN]; omega

@[simp] theorem fieldNNN_packNNN (f : BitVec 4) (nnn : Addr12) : fieldNNN (packNNN f nnn) = nnn := by
  apply BitVec.eq_of_toNat_eq
  have := nnn.isLt
  rw [fieldNNN_toNat, toNat_packNNN]; omega

@[simp] theorem fieldNN_packNNN (f : BitVec 4) (nnn : Addr12) :
    fieldNN (packNNN f nnn) = Instr.lowByte nnn := by
  apply BitVec.eq_of_toNat_eq
  have := nnn.isLt
  rw [fieldNN_toNat, toNat_packNNN]
  simp only [Instr.lowByte, BitVec.extractLsb'_toNat, Nat.shiftRight_eq_div_pow]; omega

@[simp] theorem fieldF_packXNN (f : BitVec 4) (x : Reg) (nn : Byte) : fieldF (packXNN f x nn) = f := by
  apply BitVec.eq_of_toNat_eq
  have := nn.isLt; have := x.isLt
  rw [fieldF_toNat, toNat_packXNN]; omega

@[simp] theorem fieldX_packXNN (f : BitVec 4) (x : Reg) (nn : Byte) : fieldX (packXNN f x nn) = x := by
  apply Fin.ext
  have := nn.isLt; have := x.isLt
  rw [fieldX_val, toNat_packXNN]; omega

@[simp] theorem fieldNN_packXNN (f : BitVec 4) (x : Reg) (nn : Byte) : fieldNN (packXNN f x nn) = nn := by
  apply BitVec.eq_of_toNat_eq
  have := nn.isLt; have := x.isLt
  rw [fieldNN_toNat, toNat_packXNN]; omega

@[simp] theorem fieldF_packXYN (f : BitVec 4) (x y : Reg) (n : BitVec 4) : fieldF (packXYN f x y n) = f := by
  apply BitVec.eq_of_toNat_eq
  have := n.isLt; have := x.isLt; have := y.isLt
  rw [fieldF_toNat, toNat_packXYN]; omega

@[simp] theorem fieldX_packXYN (f : BitVec 4) (x y : Reg) (n : BitVec 4) : fieldX (packXYN f x y n) = x := by
  apply Fin.ext
  have := n.isLt; have := x.isLt; have := y.isLt
  rw [fieldX_val, toNat_packXYN]; omega

@[simp] theorem fieldY_packXYN (f : BitVec 4) (x y : Reg) (n : BitVec 4) : fieldY (packXYN f x y n) = y := by
  apply Fin.ext
  have := n.isLt; have := x.isLt; have := y.isLt
  rw [fieldY_val, toNat_packXYN]; omega

@[simp] theorem fieldN_packXYN (f : BitVec 4) (x y : Reg) (n : BitVec 4) : fieldN (packXYN f x y n) = n := by
  apply BitVec.eq_of_toNat_eq
  have := n.isLt; have := x.isLt; have := y.isLt
  rw [fieldN_toNat, toNat_packXYN]; omega

@[simp] theorem nibble_toFin (k : Fin 16) : (nibble k).toFin = k := rfl

end Sys2Proof
end

