-- ==== Sys2Proof/Laws/PerInstr.lean ====
section
/-!
SUPPORT. Statements for all instructions, one lemma per constructor. EncodeFields: the family and the register field x
of an instruction's encoding are the ones 30_encoding.md R84 gives it.
-/
namespace Sys2Proof.Laws.EncodeFields

/-- The family of an instruction, the first digit of its pattern (30_encoding.md R84). -/
def family : Instr → BitVec 4
  | .sys _ => 0x0#4
  | .cls => 0x0#4
  | .ret => 0x0#4
  | .jp _ => 0x1#4
  | .call _ => 0x2#4
  | .seImm _ _ => 0x3#4
  | .sneImm _ _ => 0x4#4
  | .seReg _ _ => 0x5#4
  | .ldImm _ _ => 0x6#4
  | .addImm _ _ => 0x7#4
  | .ldReg _ _ => 0x8#4
  | .orReg _ _ => 0x8#4
  | .andReg _ _ => 0x8#4
  | .xorReg _ _ => 0x8#4
  | .addReg _ _ => 0x8#4
  | .sub _ _ => 0x8#4
  | .shr _ _ => 0x8#4
  | .subn _ _ => 0x8#4
  | .shl _ _ => 0x8#4
  | .sneReg _ _ => 0x9#4
  | .ldI _ => 0xA#4
  | .jpV0 _ => 0xB#4
  | .rnd _ _ => 0xC#4
  | .drw _ _ _ => 0xD#4
  | .skp _ => 0xE#4
  | .sknp _ => 0xE#4
  | .ldVxDt _ => 0xF#4
  | .ldK _ => 0xF#4
  | .ldDt _ => 0xF#4
  | .ldSt _ => 0xF#4
  | .addI _ => 0xF#4
  | .ldF _ => 0xF#4
  | .ldB _ => 0xF#4
  | .ldStore _ => 0xF#4
  | .ldLoad _ => 0xF#4

/-- The register that stands in the field x, for an instruction that has one (30_encoding.md R84). -/
def registerX : Instr → Option Reg
  | .sys _ => none
  | .cls => none
  | .ret => none
  | .jp _ => none
  | .call _ => none
  | .seImm x _ => some x
  | .sneImm x _ => some x
  | .seReg x _ => some x
  | .ldImm x _ => some x
  | .addImm x _ => some x
  | .ldReg x _ => some x
  | .orReg x _ => some x
  | .andReg x _ => some x
  | .xorReg x _ => some x
  | .addReg x _ => some x
  | .sub x _ => some x
  | .shr x _ => some x
  | .subn x _ => some x
  | .shl x _ => some x
  | .sneReg x _ => some x
  | .ldI _ => none
  | .jpV0 _ => none
  | .rnd x _ => some x
  | .drw x _ _ => some x
  | .skp x => some x
  | .sknp x => some x
  | .ldVxDt x => some x
  | .ldK x => some x
  | .ldDt x => some x
  | .ldSt x => some x
  | .addI x => some x
  | .ldF x => some x
  | .ldB x => some x
  | .ldStore x => some x
  | .ldLoad x => some x

/-- The family nibble of the encoding, and the field x where there is a register x. -/
def Statement (i : Instr) : Prop :=
  fieldF (encode i) = family i ∧ ∀ x : Reg, registerX i = some x → fieldX (encode i) = x

theorem sys (nnn : Addr12) : Statement (.sys nnn) := by simp [Statement, encode, family, registerX]
theorem cls : Statement .cls := by simp [Statement, registerX, encode, family]; decide
theorem ret : Statement .ret := by simp [Statement, registerX, encode, family]; decide
theorem jp (nnn : Addr12) : Statement (.jp nnn) := by simp [Statement, encode, family, registerX]
theorem call (nnn : Addr12) : Statement (.call nnn) := by simp [Statement, encode, family, registerX]
theorem seImm (x : Reg) (nn : Byte) : Statement (.seImm x nn) := by simp [Statement, encode, family, registerX]
theorem sneImm (x : Reg) (nn : Byte) : Statement (.sneImm x nn) := by simp [Statement, encode, family, registerX]
theorem seReg (x : Reg) (y : Reg) : Statement (.seReg x y) := by simp [Statement, encode, family, registerX]
theorem ldImm (x : Reg) (nn : Byte) : Statement (.ldImm x nn) := by simp [Statement, encode, family, registerX]
theorem addImm (x : Reg) (nn : Byte) : Statement (.addImm x nn) := by simp [Statement, encode, family, registerX]
theorem ldReg (x : Reg) (y : Reg) : Statement (.ldReg x y) := by simp [Statement, encode, family, registerX]
theorem orReg (x : Reg) (y : Reg) : Statement (.orReg x y) := by simp [Statement, encode, family, registerX]
theorem andReg (x : Reg) (y : Reg) : Statement (.andReg x y) := by simp [Statement, encode, family, registerX]
theorem xorReg (x : Reg) (y : Reg) : Statement (.xorReg x y) := by simp [Statement, encode, family, registerX]
theorem addReg (x : Reg) (y : Reg) : Statement (.addReg x y) := by simp [Statement, encode, family, registerX]
theorem sub (x : Reg) (y : Reg) : Statement (.sub x y) := by simp [Statement, encode, family, registerX]
theorem shr (x : Reg) (y : Reg) : Statement (.shr x y) := by simp [Statement, encode, family, registerX]
theorem subn (x : Reg) (y : Reg) : Statement (.subn x y) := by simp [Statement, encode, family, registerX]
theorem shl (x : Reg) (y : Reg) : Statement (.shl x y) := by simp [Statement, encode, family, registerX]
theorem sneReg (x : Reg) (y : Reg) : Statement (.sneReg x y) := by simp [Statement, encode, family, registerX]
theorem ldI (nnn : Addr12) : Statement (.ldI nnn) := by simp [Statement, encode, family, registerX]
theorem jpV0 (nnn : Addr12) : Statement (.jpV0 nnn) := by simp [Statement, encode, family, registerX]
theorem rnd (x : Reg) (nn : Byte) : Statement (.rnd x nn) := by simp [Statement, encode, family, registerX]
theorem drw (x : Reg) (y : Reg) (n : Fin 16) : Statement (.drw x y n) := by simp [Statement, encode, family, registerX]
theorem skp (x : Reg) : Statement (.skp x) := by simp [Statement, encode, family, registerX]
theorem sknp (x : Reg) : Statement (.sknp x) := by simp [Statement, encode, family, registerX]
theorem ldVxDt (x : Reg) : Statement (.ldVxDt x) := by simp [Statement, encode, family, registerX]
theorem ldK (x : Reg) : Statement (.ldK x) := by simp [Statement, encode, family, registerX]
theorem ldDt (x : Reg) : Statement (.ldDt x) := by simp [Statement, encode, family, registerX]
theorem ldSt (x : Reg) : Statement (.ldSt x) := by simp [Statement, encode, family, registerX]
theorem addI (x : Reg) : Statement (.addI x) := by simp [Statement, encode, family, registerX]
theorem ldF (x : Reg) : Statement (.ldF x) := by simp [Statement, encode, family, registerX]
theorem ldB (x : Reg) : Statement (.ldB x) := by simp [Statement, encode, family, registerX]
theorem ldStore (x : Reg) : Statement (.ldStore x) := by simp [Statement, encode, family, registerX]
theorem ldLoad (x : Reg) : Statement (.ldLoad x) := by simp [Statement, encode, family, registerX]

end Sys2Proof.Laws.EncodeFields
end

