-- ==== Sys2Proof/Laws/Step.lean ====
section
/-!
SUPPORT. What a step can do, said once: the cases of `step`, and the shapes of the state that `exec` answers.
-/
namespace Sys2Proof.Machine

/-- What `executeOne()` answers: the condition of a halted session, a fetch out of bounds, an unknown word, or the
execution of the decoded instruction (30_encoding.md R80, 60_exceptions.md R247). -/
theorem executeOne_cases {s t : State} (h : executeOne s = .next t) :
    (∃ c, s.halted = some c ∧ t = s.stayHalted c) ∨
    (s.halted = none ∧ s.fetch = none ∧ t = s.recordFatal (.outOfBounds .fetch s.pc.toNat s.pc)) ∨
    (s.halted = none ∧ ∃ w e, s.fetch = some w ∧ decodeWord w = .error e ∧ s.advance.raiseUnknown w = .next t) ∨
    (s.halted = none ∧ ∃ w i, s.fetch = some w ∧ decodeWord w = .ok i ∧ exec i s.advance = .next t) := by
  unfold executeOne at h
  split at h
  · next c hc => cases h; exact .inl ⟨c, hc, rfl⟩
  · next hc =>
    split at h
    · next hf => cases h; exact .inr (.inl ⟨hc, hf, rfl⟩)
    · next w hf =>
      unfold executeWord at h
      split at h
      · next i hi => exact .inr (.inr (.inr ⟨hc, w, i, hf, hi, h⟩))
      · next e he => exact .inr (.inr (.inl ⟨hc, w, e, hf, he, h⟩))

/-- A step that answers is another operation than a call, or one of the answers of `executeOne()`, at the state with
that operation taken from the schedule (70_reset_and_hazards.md R285). -/
theorem step_cases {s t : State} (h : step s = .next t) :
    (s.nextOp ≠ .executeOne ∧ s.takeOp.perform s.nextOp = .next t) ∨
    (s.nextOp = .executeOne ∧ ∃ c, s.halted = some c ∧ t = s.takeOp.stayHalted c) ∨
    (s.nextOp = .executeOne ∧ s.halted = none ∧ s.fetch = none ∧
      t = s.takeOp.recordFatal (.outOfBounds .fetch s.pc.toNat s.pc)) ∨
    (s.nextOp = .executeOne ∧ s.halted = none ∧ ∃ w e, s.fetch = some w ∧ decodeWord w = .error e ∧
      s.takeOp.advance.raiseUnknown w = .next t) ∨
    (s.nextOp = .executeOne ∧ s.halted = none ∧ ∃ w i, s.fetch = some w ∧ decodeWord w = .ok i ∧
      exec i s.takeOp.advance = .next t) := by
  by_cases hn : s.nextOp = .executeOne
  · have h' : executeOne s.takeOp = .next t := by simpa [step, hn, State.perform] using h
    simpa [hn] using executeOne_cases h'
  · exact .inl ⟨hn, h⟩

/-- A call in a halted session returns its condition. -/
theorem step_halted {s : State} {c : Fatal} (hn : s.nextOp = .executeOne) (hc : s.halted = some c) :
    step s = .next (s.takeOp.stayHalted c) := by
  simp [step, hn, State.perform, executeOne, hc]

/-- A call in a running session executes the fetched word. -/
theorem step_fetched {s : State} {w : Word} (hn : s.nextOp = .executeOne) (hc : s.halted = none)
    (hf : s.fetch = some w) : step s = executeWord w s.takeOp.advance := by
  simp [step, hn, State.perform, executeOne, hc, hf]

/-- A call in a running session executes the instruction that the fetched word decodes to. -/
theorem step_decoded {s : State} {w : Word} {i : Instr} (hn : s.nextOp = .executeOne) (hc : s.halted = none)
    (hf : s.fetch = some w) (hi : decodeWord w = .ok i) : step s = exec i s.takeOp.advance := by
  rw [step_fetched hn hc hf]; simp [executeWord, hi]

/-- A step whose operation is no call is that operation. -/
theorem step_operation {s : State} {op : Operation} (hn : s.nextOp = op) : step s = s.takeOp.perform op := by
  rw [← hn]; rfl

/-- A run of `k + 1` steps whose first step answers is that step and a run of `k`. -/
theorem run_succ (M : Host.Core) (k : Nat) (s t : M.State) (h : M.step s = .next t) :
    M.run (k + 1) s = M.run k t := by
  rw [Host.Core.run, h]

/-- The same for this machine. -/
theorem core_run_succ (k : Nat) (s t : State) (h : step s = .next t) :
    Sys2Proof.core.run (k + 1) s = Sys2Proof.core.run k t :=
  run_succ Sys2Proof.core k s t h

/-- The shapes a state that `exec` answers can have: which fields an instruction writes, and which instructions write
the control state, the memory and the display (10_state.md R40, 20_memory.md R68). -/
inductive ExecShape (i : Instr) (s : State) : State → Prop
  /-- A fatal condition was raised. -/
  | raised (c : Fatal) : ExecShape i s (s.recordFatal c)
  /-- At most general registers were written and a random byte drawn. -/
  | registers (v : Vector Byte 16) (d : Nat) (o : Output) : ExecShape i s { s with v := v, draws := d, out := o }
  /-- PC was moved: by a skip, back to P, or to a jump target. -/
  | moved (p : Word) (o : Output) (hp : p = s.pc + 2#16 ∨ p = s.pc - 2#16 ∨ p.toNat ≤ 0x10FE) :
      ExecShape i s { s with pc := p, out := o }
  | called (nnn : Addr12) (k : Fin 16) (hi : i = .call nnn) (hk : s.sp.toNat = k.val) :
      ExecShape i s (((s.pushPc k).setPc (zextAddr nnn)).setOut Output.ok)
  | returned (k : Fin 16) (hi : i = .ret) (hk : s.sp.toNat = k.val + 1) :
      ExecShape i s ((s.popPc k).setOut Output.ok)
  | index (w : Word) (hi : (∃ nnn, i = .ldI nnn) ∨ (∃ x, i = .addI x) ∨ ∃ x, i = .ldF x) :
      ExecShape i s ((s.setI w).setOut Output.ok)
  | delay (x : Reg) (hi : i = .ldDt x) : ExecShape i s ((s.setDt (s.reg x)).setOut Output.ok)
  | sound (x : Reg) (hi : i = .ldSt x) : ExecShape i s ((s.setSt (s.reg x)).setOut Output.ok)
  /-- Bytes inside the memory were stored. -/
  | stored (a : Nat) (bs : List Byte) (hi : (∃ x, i = .ldB x) ∨ ∃ x, i = .ldStore x)
      (ha : a + bs.length ≤ lastAddress + 1) : ExecShape i s ((s.setMem (s.mem.writeBytes a bs)).setOut Output.ok)
  /-- The display was written, and at most registers. -/
  | drawn (v : Vector Byte 16) (d : Display) (hi : i = .cls ∨ ∃ x y n, i = .drw x y n) :
      ExecShape i s (((s.setV v).setDisp d).setOut Output.ok)

/-- Every state that `exec` answers has one of the shapes. -/
theorem exec_shape {i : Instr} {s t : State} (h : exec i s = .next t) : ExecShape i s t := by
  cases i with
  | sys nnn => cases h; exact .registers s.v s.draws _
  | cls => cases h; exact .drawn s.v _ (.inl rfl)
  | ret =>
    simp only [exec, execRet] at h
    split at h
    · cases h; exact .raised _
    · next h0 =>
      split at h
      · next hk =>
        cases h
        have : s.sp.toNat ≠ 0 := fun h' => h0 (BitVec.eq_of_toNat_eq h')
        exact .returned _ rfl (show s.sp.toNat = s.sp.toNat - 1 + 1 by omega)
      · simp at h
  | call nnn =>
    simp only [exec, execCall] at h
    split at h
    · cases h; exact .raised _
    · split at h
      · next hk => cases h; exact .called nnn ⟨_, hk⟩ rfl rfl
      · simp at h
  | jp nnn =>
    cases h
    have := nnn.isLt
    exact .moved _ _ (.inr (.inr (by simp [zextAddr]; omega)))
  | jpV0 nnn =>
    cases h
    have := nnn.isLt
    have := (s.reg 0).isLt
    exact .moved _ _ (.inr (.inr (by simp [zextAddr, zextByte]; omega)))
  | seImm x nn | sneImm x nn | seReg x y | sneReg x y =>
    simp only [exec, execSeImm, execSneImm, execSeReg, execSneReg, State.complete, State.skipIf] at h
    split at h
    · cases h; exact .moved _ _ (.inl rfl)
    · cases h; exact .registers s.v s.draws _
  | ldImm x nn | addImm x nn | ldReg x y | addReg x y | sub x y | shr x y | subn x y | shl x y | rnd x nn
  | ldVxDt x => cases h; exact .registers _ _ _
  | orReg x y | andReg x y | xorReg x y =>
    simp only [exec, execOrReg, execAndReg, execXorReg, State.complete, State.writeLogic] at h
    split at h <;> cases h <;> exact .registers _ _ _
  | ldI nnn => cases h; exact .index _ (.inl ⟨_, rfl⟩)
  | addI x => cases h; exact .index _ (.inr (.inl ⟨_, rfl⟩))
  | ldF x => cases h; exact .index _ (.inr (.inr ⟨_, rfl⟩))
  | ldDt x => cases h; exact .delay x rfl
  | ldSt x => cases h; exact .sound x rfl
  | skp x | sknp x =>
    simp only [exec, execSkp, execSknp] at h
    obtain ⟨k, hk⟩ | ⟨c, hc⟩ := s.withKey_cases x _
    · rw [hk] at h
      simp only [State.complete, State.skipIf] at h
      split at h
      · cases h; exact .moved _ _ (.inl rfl)
      · cases h; exact .registers s.v s.draws _
    · rw [hc] at h; cases h; exact .raised c
  | ldK x =>
    simp only [exec, execLdK] at h
    split at h
    · cases h; exact .registers _ _ _
    · cases h; exact .moved _ _ (.inr (.inl rfl))
  | ldB x =>
    simp only [exec, execLdB] at h
    obtain ⟨hk, hr⟩ | ⟨c, hc⟩ := s.withRange_cases .write s.i.toNat 3 _
    · rw [hk] at h
      cases h
      exact .stored _ _ (.inl ⟨x, rfl⟩) (by simp [bcdDigits] at hr ⊢; omega)
    · rw [hc] at h; cases h; exact .raised c
  | ldStore x =>
    simp only [exec, execLdStore] at h
    obtain ⟨hk, hr⟩ | ⟨c, hc⟩ := s.withRange_cases .write s.i.toNat (x.val + 1) _
    · rw [hk] at h
      cases h
      exact .stored _ _ (.inr ⟨x, rfl⟩) (by rw [State.regRun_length]; omega)
    · rw [hc] at h; cases h; exact .raised c
  | ldLoad x =>
    simp only [exec, execLdLoad] at h
    obtain ⟨hk, -⟩ | ⟨c, hc⟩ := s.withRange_cases .read s.i.toNat (x.val + 1) _
    · rw [hk] at h; cases h; exact .registers _ _ _
    · rw [hc] at h; cases h; exact .raised c
  | drw x y n =>
    simp only [exec, execDrw] at h
    obtain ⟨hk, -⟩ | ⟨c, hc⟩ := s.withRange_cases .read s.i.toNat n.val _
    · rw [hk] at h; cases h; exact .drawn _ _ (.inr ⟨x, y, n, rfl⟩)
    · rw [hc] at h; cases h; exact .raised c

/-- No operation writes the schedule. -/
theorem State.perform_schedule {op : Operation} {s t : State} (h : s.perform op = .next t) :
    t.pending = s.pending ∧ t.driver = s.driver := by
  cases op with
  | executeOne =>
    obtain ⟨c, -, rfl⟩ | ⟨-, -, rfl⟩ | ⟨-, w, e, -, -, h⟩ | ⟨-, w, i, -, -, h⟩ := executeOne_cases h
    · exact ⟨rfl, rfl⟩
    · exact ⟨rfl, rfl⟩
    · cases h; exact ⟨rfl, rfl⟩
    · cases exec_shape h <;> exact ⟨rfl, rfl⟩
  | _ => cases h; simp

/-- A step takes its operation from the schedule and leaves the rest: so the operations that `pending` lists are taken
one at a time, in that order, calls and others mixed in any way (70_reset_and_hazards.md R285). -/
theorem step_schedule {s t : State} (h : step s = .next t) :
    t.pending = s.takeOp.pending ∧ t.driver = s.takeOp.driver :=
  State.perform_schedule h

/-- Where `pending` lists `op` first, a step performs `op` and the list that follows is left. -/
theorem step_pending {s t : State} {op : Operation} {rest : List Operation} (hp : s.pending = op :: rest)
    (h : step s = .next t) : State.perform { s with pending := rest } op = .next t ∧ t.pending = rest := by
  have hs := (step_schedule h).1
  rw [State.takeOp_pending hp] at hs
  rw [step_operation (State.nextOp_pending hp), State.takeOp_pending hp] at h
  exact ⟨h, hs⟩

/-- A frame after the first listed operation is taken is a frame of the state before, the list apart. -/
theorem OthersKept.of_takeOp {L : List Part} {s t : State} {op : Operation} {rest : List Operation}
    (hp : s.pending = op :: rest) (h : OthersKept L s.takeOp t) : OthersKept (.pending :: L) s t := by
  intro p hL
  rw [State.takeOp_pending hp] at h
  have := h p (List.not_mem_of_not_mem_cons hL)
  cases p <;> first | exact this | simp at hL

end Sys2Proof.Machine
end

