-- ==== Sys2Proof/Tests/Slice0.lean ====
section
/-!
SUPPORT. The model's own tests: one step each, expected values from spec/95_test_vectors.md (the vector is named) or
computed by hand from the rule named; words written from the patterns of 30_encoding.md R84. Then a witness for the
hypotheses of every statement.
-/
namespace Sys2Proof.Tests
open Sys2Proof.Machine

/-- The answer is a next state with the property. -/
def answers (o : StepResult) (p : State → Bool) : Bool :=
  match o with
  | .next t => p t
  | .fault _ => false
  | .refused _ => false

/-- The state after session creation with some registers set. -/
def regs (rs : List (Reg × Byte)) : State := rs.foldl (fun s r => s.setReg r.1 r.2) State.reset

/-- One step on a word placed at PC. -/
def runs (s : State) (w : Nat) (p : State → Bool) : Bool := answers (step (s.withFetchWord 16 w)) p

/-- A state with a byte of memory set. -/
def poke (a : Nat) (b : Byte) (s : State) : State := s.setMem (s.mem.write a b)

/-- A state with some keys down. -/
def press (ks : List KeyIx) (s : State) : State := ks.foldl (fun s k => s.pressKey k true) s

/-- A state with I set. -/
def atI (w : Word) (s : State) : State := s.setI w

/-! ### WellFormed refuses what is no instruction -/

theorem test_wf_refuses_sys_cls : Instr.wellFormed (.sys 0x0E0#12) = false := by decide
theorem test_wf_refuses_sys_cls_high : Instr.wellFormed (.sys 0x7E0#12) = false := by decide
theorem test_wf_refuses_sys_ret : Instr.wellFormed (.sys 0x0EE#12) = false := by decide
theorem test_wf_takes_sys : Instr.wellFormed (.sys 0x123#12) = true := by decide

/-! ### Decoding: a word per constructor, written out from 30_encoding.md R84 -/

theorem test_decode_sys : decodeWord 0b0000_0001_0010_0011#16 = .ok (.sys 0x123#12) := by decide
theorem test_decode_cls : decodeWord 0b0000_0000_1110_0000#16 = .ok (.cls) := by decide
theorem test_decode_ret : decodeWord 0b0000_0000_1110_1110#16 = .ok (.ret) := by decide
theorem test_decode_jp : decodeWord 0b0001_0010_0011_0100#16 = .ok (.jp 0x234#12) := by decide
theorem test_decode_call : decodeWord 0b0010_1010_1011_1100#16 = .ok (.call 0xABC#12) := by decide
theorem test_decode_seImm : decodeWord 0b0011_0011_0001_0010#16 = .ok (.seImm 3 0x12) := by decide
theorem test_decode_sneImm : decodeWord 0b0100_1010_0111_1111#16 = .ok (.sneImm 0xA 0x7F) := by decide
theorem test_decode_seReg : decodeWord 0b0101_0001_0010_0000#16 = .ok (.seReg 1 2) := by decide
theorem test_decode_ldImm : decodeWord 0b0110_1010_0010_1011#16 = .ok (.ldImm 0xA 0x2B) := by decide
theorem test_decode_addImm : decodeWord 0b0111_0000_1111_1111#16 = .ok (.addImm 0 0xFF) := by decide
theorem test_decode_ldReg : decodeWord 0b1000_0001_0010_0000#16 = .ok (.ldReg 1 2) := by decide
theorem test_decode_orReg : decodeWord 0b1000_0001_0010_0001#16 = .ok (.orReg 1 2) := by decide
theorem test_decode_andReg : decodeWord 0b1000_0001_0010_0010#16 = .ok (.andReg 1 2) := by decide
theorem test_decode_xorReg : decodeWord 0b1000_0001_0010_0011#16 = .ok (.xorReg 1 2) := by decide
theorem test_decode_addReg : decodeWord 0b1000_1111_0001_0100#16 = .ok (.addReg 0xF 1) := by decide
theorem test_decode_sub : decodeWord 0b1000_0001_0010_0101#16 = .ok (.sub 1 2) := by decide
theorem test_decode_shr : decodeWord 0b1000_0001_0010_0110#16 = .ok (.shr 1 2) := by decide
theorem test_decode_subn : decodeWord 0b1000_0001_0010_0111#16 = .ok (.subn 1 2) := by decide
theorem test_decode_shl : decodeWord 0b1000_0001_0010_1110#16 = .ok (.shl 1 2) := by decide
theorem test_decode_sneReg : decodeWord 0b1001_0001_0010_0000#16 = .ok (.sneReg 1 2) := by decide
theorem test_decode_ldI : decodeWord 0b1010_0011_0000_0000#16 = .ok (.ldI 0x300#12) := by decide
theorem test_decode_jpV0 : decodeWord 0b1011_1111_1111_1111#16 = .ok (.jpV0 0xFFF#12) := by decide
theorem test_decode_rnd : decodeWord 0b1100_0011_0000_1111#16 = .ok (.rnd 3 0x0F) := by decide
theorem test_decode_drw : decodeWord 0b1101_0010_0011_1111#16 = .ok (.drw 2 3 0xF) := by decide
theorem test_decode_skp : decodeWord 0b1110_0101_1001_1110#16 = .ok (.skp 5) := by decide
theorem test_decode_sknp : decodeWord 0b1110_0101_1010_0001#16 = .ok (.sknp 5) := by decide
theorem test_decode_ldVxDt : decodeWord 0b1111_0001_0000_0111#16 = .ok (.ldVxDt 1) := by decide
theorem test_decode_ldK : decodeWord 0b1111_0011_0000_1010#16 = .ok (.ldK 3) := by decide
theorem test_decode_ldDt : decodeWord 0b1111_0001_0001_0101#16 = .ok (.ldDt 1) := by decide
theorem test_decode_ldSt : decodeWord 0b1111_0010_0001_1000#16 = .ok (.ldSt 2) := by decide
theorem test_decode_addI : decodeWord 0b1111_0010_0001_1110#16 = .ok (.addI 2) := by decide
theorem test_decode_ldF : decodeWord 0b1111_1010_0010_1001#16 = .ok (.ldF 0xA) := by decide
theorem test_decode_ldB : decodeWord 0b1111_0000_0011_0011#16 = .ok (.ldB 0) := by decide
theorem test_decode_ldStore : decodeWord 0b1111_1111_0101_0101#16 = .ok (.ldStore 0xF) := by decide
theorem test_decode_ldLoad : decodeWord 0b1111_0010_0110_0101#16 = .ok (.ldLoad 2) := by decide

/-- 5XYn and 0XEE decode loosely (V34, V28); the words of R86 decode to nothing (V9, V10, V11). -/
theorem test_decode_loose : decodeWord 0x5121#16 = .ok (.seReg 1 2) ∧ decodeWord 0x05EE#16 = .ok .ret ∧
    decodeWord 0x01E0#16 = .ok .cls ∧ decodeWord 0x9127#16 = .ok (.sneReg 1 2) := by decide
theorem test_decode_unknown : decodeWord 0x800D#16 = .error (.unknownAluOp 0xD#4) ∧
    decodeWord 0xE09F#16 = .error (.unknownKeyOp 0x9F#8) ∧ decodeWord 0xF075#16 = .error (.unknownMiscOp 0x75#8) ∧
    decodeBytes [0x12#8] = .error .truncated := by decide
/-- Big-endian bytes (V1), and the bits as the opcode table numbers them. -/
theorem test_decode_bytes : decodeBytes [0x60#8, 0x2A#8, 0x00#8] = .ok (.ldImm 0 0x2A, [0x00#8]) ∧
    decodeTableWord 16 0x602A = some (.ldImm 0 0x2A) := by decide
theorem test_encode_words : encode (.drw 2 3 5) = 0xD235#16 ∧ encode (.shl 0xA 0xB) = 0x8ABE#16 ∧
    encode (.ldLoad 2) = 0xF265#16 := by decide
theorem test_status_codes : Status.code .ok = 0 ∧ Status.code .keyWait = 1 ∧ Status.code (.unknownOpcode 0 0) = 2 ∧
    Status.code (.fatal (.stackOverflow 0)) = 3 ∧ Status.code (.fatal (.stackUnderflow 0)) = 4 ∧
    Status.code (.fatal (.outOfBounds .read 0 0)) = 5 := by decide

/-! ### Control flow (vectors 2.2) -/

/-- V7. -/
theorem test_sys : runs (State.reset) 0x0123
    (fun t => t.out == { result := .status (.unknownOpcode 0x0123#16 0x200#16), report := some (.unknownOpcode 0x0123#16 0x200#16) } && t.pc == 0x202#16) = true := by decide
/-- E10. -/
theorem test_unknown_word : runs (State.reset) 0x8008
    (fun t => t.out == { result := .status (.unknownOpcode 0x8008#16 0x200#16), report := some (.unknownOpcode 0x8008#16 0x200#16) } && t.pc == 0x202#16) = true := by decide
/-- V21: an odd target. -/
theorem test_jp : runs (State.reset) 0x1201
    (fun t => t.pc == 0x201#16 && t.out == Output.ok) = true := by decide
/-- V39: not masked. -/
theorem test_jpV0 : runs (regs [(0, 0xFF)]) 0xBFFF
    (fun t => t.pc == 0x10FE#16) = true := by decide
/-- V24. -/
theorem test_call_last_slot : runs ({ State.reset with sp := 15#8, pc := 0x300#16 }) 0x2400
    (fun t => t.stack.get 15 == 0x302#16 && t.sp == 16#8 && t.pc == 0x400#16) = true := by decide
/-- V25. -/
theorem test_call_overflow : runs ({ State.reset with sp := 16#8, pc := 0x300#16 }) 0x2400
    (fun t => t.halted == some (.stackOverflow 0x300#16) && t.out.result == .status (.fatal (.stackOverflow 0x300#16)) && t.pc == 0x302#16 && t.sp == 16#8) = true := by decide
/-- V28, V26. -/
theorem test_ret : runs ({ State.reset with sp := 1#8, stack := State.reset.stack.set 0 0x206#16 }) 0x05EE
    (fun t => t.sp == 0#8 && t.pc == 0x206#16 && t.stack.get 0 == 0x206#16) = true := by decide
/-- V27. -/
theorem test_ret_underflow : runs (State.reset) 0x00EE
    (fun t => t.halted == some (.stackUnderflow 0x200#16) && t.out.result == .status (.fatal (.stackUnderflow 0x200#16)) && t.pc == 0x202#16) = true := by decide
/-- V29. -/
theorem test_seImm_taken : runs (regs [(3, 0x12)]) 0x3312
    (fun t => t.pc == 0x204#16) = true := by decide
/-- V41, the other way: VF compares as a register. -/
theorem test_seImm_vf : runs (regs [(15, 0x01)]) 0x3F02
    (fun t => t.pc == 0x202#16) = true := by decide
/-- V31. -/
theorem test_sneImm : runs (regs [(3, 0x13)]) 0x4312
    (fun t => t.pc == 0x204#16) = true := by decide
/-- V34. -/
theorem test_seReg : runs (regs [(1, 7), (2, 7)]) 0x5121
    (fun t => t.pc == 0x204#16) = true := by decide
/-- V35. -/
theorem test_seReg_differs : runs (regs [(1, 7), (2, 8)]) 0x5120
    (fun t => t.pc == 0x202#16) = true := by decide
/-- V36. -/
theorem test_sneReg : runs (regs [(1, 7), (2, 8)]) 0x9120
    (fun t => t.pc == 0x204#16) = true := by decide
/-- V37. -/
theorem test_sneReg_same : runs (regs [(1, 7)]) 0x9110
    (fun t => t.pc == 0x202#16) = true := by decide

/-! ### Registers and ALU (vectors 2.3) -/

/-- V51. -/
theorem test_ldImm_vf : runs (State.reset) 0x6FAA
    (fun t => t.reg 15 == 0xAA && t.pc == 0x202#16) = true := by decide
/-- V52. -/
theorem test_addImm_no_flag : runs (regs [(0, 0xFF), (15, 0x55)]) 0x7001
    (fun t => t.reg 0 == 0x00 && t.reg 15 == 0x55) = true := by decide
/-- V55. -/
theorem test_ldReg : runs (regs [(1, 0x55), (15, 0x07)]) 0x8010
    (fun t => t.reg 0 == 0x55 && t.reg 1 == 0x55 && t.reg 15 == 0x07) = true := by decide
/-- V56. -/
theorem test_or_unchanged : runs (regs [(0, 0xF0), (1, 0x0F), (15, 0x07)]) 0x8011
    (fun t => t.reg 0 == 0xFF && t.reg 15 == 0x07) = true := by decide
/-- V56 with RESET. -/
theorem test_or_reset : runs ({ regs [(0, 0xF0), (1, 0x0F), (15, 0x07)] with params := { Params.default with logicVfQuirk := .reset } }) 0x8011
    (fun t => t.reg 0 == 0xFF && t.reg 15 == 0x00) = true := by decide
/-- V57. -/
theorem test_and : runs (regs [(0, 0xF0), (1, 0x3C)]) 0x8012
    (fun t => t.reg 0 == 0x30) = true := by decide
/-- V58. -/
theorem test_xor : runs (regs [(0, 0xF0), (1, 0x3C)]) 0x8013
    (fun t => t.reg 0 == 0xCC) = true := by decide
/-- E1. -/
theorem test_addReg : runs (regs [(0, 0xFF), (1, 0x01)]) 0x8014
    (fun t => t.reg 0 == 0x00 && t.reg 15 == 0x01) = true := by decide
/-- V63: the flag stays, the result 0x05 is lost. -/
theorem test_addReg_into_vf : runs (regs [(15, 0x10), (1, 0xF5)]) 0x8F14
    (fun t => t.reg 15 == 0x01) = true := by decide
/-- V66. -/
theorem test_sub_borrow : runs (regs [(0, 0x03), (1, 0x05)]) 0x8015
    (fun t => t.reg 0 == 0xFE && t.reg 15 == 0x00) = true := by decide
/-- V67. -/
theorem test_sub_equal : runs (regs [(0, 0x07), (1, 0x07)]) 0x8015
    (fun t => t.reg 0 == 0x00 && t.reg 15 == 0x01) = true := by decide
/-- V76. -/
theorem test_subn : runs (regs [(0, 0x03), (1, 0x05)]) 0x8017
    (fun t => t.reg 0 == 0x02 && t.reg 15 == 0x01) = true := by decide
/-- V77. -/
theorem test_subn_borrow : runs (regs [(0, 0x05), (1, 0x03)]) 0x8017
    (fun t => t.reg 0 == 0xFE && t.reg 15 == 0x00) = true := by decide
/-- V74. -/
theorem test_shr_vx : runs (regs [(0, 0xFF), (1, 0x04)]) 0x8016
    (fun t => t.reg 0 == 0x7F && t.reg 15 == 0x01) = true := by decide
/-- V73. -/
theorem test_shr_vy : runs ({ regs [(0, 0xFF), (1, 0x04)] with params := { Params.default with shiftQuirk := .vy } }) 0x8016
    (fun t => t.reg 0 == 0x02 && t.reg 15 == 0x00) = true := by decide
/-- V82. -/
theorem test_shl_into_vf : runs (regs [(15, 0x80)]) 0x8FFE
    (fun t => t.reg 15 == 0x01) = true := by decide
/-- V81. -/
theorem test_shl_vy : runs ({ regs [(1, 0x81)] with params := { Params.default with shiftQuirk := .vy } }) 0x801E
    (fun t => t.reg 0 == 0x02 && t.reg 15 == 0x01) = true := by decide
/-- R142: the draw under the mask, whatever the draw is. -/
theorem test_rnd : exec (.rnd 3 0x0F) State.reset =
    .next ((State.reset.countDraw.setReg 3 (Config.randomByte 0 &&& 0x0F)).setOut Output.ok) := rfl

/-! ### Index register and memory (vectors 2.4) -/

/-- V91. -/
theorem test_ldI : runs (State.reset) 0xAFFF
    (fun t => t.i == 0xFFF#16) = true := by decide
/-- V93. -/
theorem test_addI_above_memory : runs (atI 0xFFF#16 (regs [(1, 0x01)])) 0xF11E
    (fun t => t.i == 0x1000#16 && t.reg 15 == 0x00) = true := by decide
/-- V94. -/
theorem test_addI_wraps : runs (atI 0xFFFF#16 (regs [(2, 0x02)])) 0xF21E
    (fun t => t.i == 0x0001#16) = true := by decide
/-- V97. -/
theorem test_ldF_unmasked : runs (regs [(0, 0xFF)]) 0xF029
    (fun t => t.i == 0x4FB#16) = true := by decide
/-- E3. -/
theorem test_ldB : runs (atI 0x300#16 (regs [(0, 0xFE)])) 0xF033
    (fun t => t.mem.readBytes 0x300 3 == [2#8, 5#8, 4#8] && t.i == 0x300#16) = true := by decide
/-- E11. -/
theorem test_ldB_out : runs (atI 0xFFE#16 (regs [(0, 0xFE)])) 0xF033
    (fun t => t.halted == some (.outOfBounds .write 0x1000 0x200#16) && t.out.result == .status (.fatal (.outOfBounds .write 0x1000 0x200#16)) && t.mem.read 0xFFE == 0#8) = true := by decide
/-- V102. -/
theorem test_ldStore : runs (atI 0x400#16 (poke 0x403 9 (regs [(0, 1), (1, 2), (2, 3), (3, 4)]))) 0xF255
    (fun t => t.mem.readBytes 0x400 4 == [1#8, 2#8, 3#8, 9#8] && t.i == 0x400#16) = true := by decide
/-- V105. -/
theorem test_ldStore_out : runs (atI 0xFF1#16 (regs [(0, 1)])) 0xFF55
    (fun t => t.halted == some (.outOfBounds .write 0x1000 0x200#16) && t.out.result == .status (.fatal (.outOfBounds .write 0x1000 0x200#16)) && t.mem.read 0xFF1 == 0#8) = true := by decide
/-- V107. -/
theorem test_ldLoad : runs (atI 0x300#16 (poke 0x300 2 (poke 0x301 5 (poke 0x302 4 (regs [(3, 7)]))))) 0xF265
    (fun t => t.reg 0 == 2 && t.reg 1 == 5 && t.reg 2 == 4 && t.reg 3 == 7) = true := by decide
/-- V109. -/
theorem test_ldLoad_out : runs (atI 0xFFF#16 (regs [(0, 6)])) 0xF165
    (fun t => t.halted == some (.outOfBounds .read 0x1000 0x200#16) && t.out.result == .status (.fatal (.outOfBounds .read 0x1000 0x200#16)) && t.reg 0 == 6) = true := by decide

/-! ### Display (vectors 2.5) -/

/-- V121. -/
theorem test_cls : runs (State.reset.setDisp (Display.setCell Display.clear 4 3 true)) 0x01E0
    (fun t => Display.cell t.disp 4 3 == false) = true := by decide
/-- V127, with the row of E9. -/
theorem test_drw_wraps : runs (atI 0x050#16 (poke 0x050 0xFF (regs [(0, 0x3E), (1, 0x1F)]))) 0xD011
    (fun t => Display.cell t.disp 62 31 && Display.cell t.disp 5 31 && !Display.cell t.disp 6 31 && !Display.cell t.disp 61 31 && t.reg 15 == 0) = true := by decide
/-- V125. -/
theorem test_drw_collides : runs (atI 0x050#16 (poke 0x050 0xC0 (State.reset.setDisp (Display.setCell Display.clear 0 0 true)))) 0xD001
    (fun t => !Display.cell t.disp 0 0 && Display.cell t.disp 1 0 && t.reg 15 == 1) = true := by decide
/-- V129. -/
theorem test_drw_x_is_vf : runs (atI 0x050#16 (poke 0x050 0x80 (regs [(15, 0x05)]))) 0xDF11
    (fun t => Display.cell t.disp 5 0 && t.reg 15 == 0) = true := by decide
/-- V124: the glyph 0 of the font. -/
theorem test_drw_glyph : runs (State.reset) 0xD015
    (fun t => Display.cell t.disp 3 0 && Display.cell t.disp 0 2 && !Display.cell t.disp 1 2 && Display.cell t.disp 3 4 && !Display.cell t.disp 4 4) = true := by decide
/-- V130. -/
theorem test_drw_no_rows : runs (atI 0x1000#16 (regs [(15, 0x07)])) 0xD010
    (fun t => t.reg 15 == 0 && t.halted == none) = true := by decide
/-- V132. -/
theorem test_drw_out : runs (atI 0xFFF#16 (regs [(15, 0x07)])) 0xD012
    (fun t => t.halted == some (.outOfBounds .read 0x1000 0x200#16) && t.out.result == .status (.fatal (.outOfBounds .read 0x1000 0x200#16)) && t.reg 15 == 0x07) = true := by decide

/-! ### Keys and timers (vectors 2.6) -/

/-- V140. -/
theorem test_skp : runs (press [3] (regs [(5, 3)])) 0xE59E
    (fun t => t.pc == 0x204#16) = true := by decide
/-- V144. -/
theorem test_skp_illegal : runs (regs [(5, 0x10)]) 0xE59E
    (fun t => t.halted == some (.outOfBounds .key 0x10 0x200#16) && t.out.result == .status (.fatal (.outOfBounds .key 0x10 0x200#16))) = true := by decide
/-- V142. -/
theorem test_sknp : runs (regs [(5, 3)]) 0xE5A1
    (fun t => t.pc == 0x204#16) = true := by decide
/-- V143. -/
theorem test_sknp_down : runs (press [3] (regs [(5, 3)])) 0xE5A1
    (fun t => t.pc == 0x202#16) = true := by decide
/-- E5. -/
theorem test_ldK_lowest : runs (press [12, 7] State.reset) 0xF30A
    (fun t => t.reg 3 == 7 && t.pc == 0x202#16 && t.out == Output.ok) = true := by decide
/-- V146. -/
theorem test_ldK_waits : runs (State.reset) 0xF30A
    (fun t => t.pc == 0x200#16 && t.reg 3 == 0 && t.out.result == .status .keyWait) = true := by decide
/-- V150. -/
theorem test_ldVxDt : runs (State.reset.setDt 0x3C) 0xF107
    (fun t => t.reg 1 == 0x3C) = true := by decide
/-- V151. -/
theorem test_ldDt : runs (regs [(1, 0x3C)]) 0xF115
    (fun t => t.dt == 0x3C#8) = true := by decide
/-- V153. -/
theorem test_ldSt_no_cue : runs (State.reset.setSt 5) 0xF018
    (fun t => t.st == 0#8 && t.out == Output.ok) = true := by decide

/-! ### Fetch, halt, the host's operations -/

/-- V2: the last legal fetch. -/
theorem test_fetch_last : runs { State.reset with pc := 0xFFE#16 } 0x1200 (fun t => t.pc == 0x200#16) = true := by decide
/-- V3. -/
theorem test_fetch_out : answers (step { State.reset with pc := 0xFFF#16 })
    (fun t => t.halted == some (.outOfBounds .fetch 0xFFF 0xFFF#16) && t.pc == 0xFFF#16) = true := by decide
/-- V12: a halted session stays as it is. -/
theorem test_halted : answers (step { State.reset with halted := some (.stackOverflow 0x200#16) })
    (fun t => t.pc == 0x200#16 && t.out == { result := .status (.fatal (.stackOverflow 0x200#16)), report := none }) =
      true := by decide
/-- V156, the second tick. -/
theorem test_tick_cue : answers (step { State.reset with st := 1#8, dt := 2#8, pending := [.tick] })
    (fun t => t.st == 0#8 && t.dt == 1#8 && t.out.result == .cue true && t.pending == []) = true := by decide
/-- Between two calls at an FX0A come a tick and a key: the wait ends, the timer counted (program P4, 70_reset_and_hazards
R293). -/
theorem test_wait_interleaved :
    answers (Sys2Proof.core.run 4 ({ State.reset with mem := [(0x200, 0xF1), (0x201, 0x0A)], dt := 3#8 }.driven
        [.executeOne, .tick, .setKey 4 true, .executeOne] .calls))
      (fun t => t.reg 1 == 4 && t.dt == 2#8 && t.pc == 0x202#16 && t.pending == []) = true := by decide
/-- V157. -/
theorem test_tick_halted :
    answers (step { State.reset with dt := 5#8, halted := some (.stackUnderflow 0#16), pending := [.tick] })
      (fun t => t.dt == 5#8 && t.out.result == .status (.fatal (.stackUnderflow 0#16))) = true := by decide
/-- V160. -/
theorem test_reset_operation :
    answers (step { poke 0x300 7 (press [2] (regs [(3, 9)])) with
        i := 0x300#16, sp := 2#8, dt := 4#8, st := 3#8, pc := 0x240#16, pending := [.reset] })
      (fun t => t.reg 3 == 0 && t.i == 0#16 && t.sp == 0#8 && t.dt == 0#8 && t.st == 0#8 && t.pc == 0x200#16 &&
        t.keyDown 2 && t.mem.read 0x300 == 7#8 && t.out.result == .done) = true := by decide
/-- V162. -/
theorem test_create : (State.create Params.default conventionalFont [0x60#8, 0x2A#8]).any
    (fun s => s.mem == [(0x200, 0x60#8), (0x201, 0x2A#8)] && s.mem.read 0x04B == 0xF0#8 && s.pc == 0x200#16) = true := by
  decide +kernel
/-- R262: an image over 3584 bytes under REJECT. -/
theorem test_load_rejects : (Memory.withImage [] .reject (List.replicate 3585 1#8)) = none := by decide +kernel
/-- Writing what an unlisted address reads removes the entry; entries stay sorted. -/
theorem test_memory_canonical :
    ((Memory.write (Memory.write (Memory.write [] 0x300 7) 0x200 5) 0 0x12).write 0x300 0).write 0 0xF0 =
      [(0x200, 5#8)] := by decide
/-- The bytes placed at PC are what the next step runs. -/
theorem test_placed : runs { State.reset with pc := 0xFFF#16, halted := some (.stackUnderflow 0#16), pending := [.tick] }
    0x6A2B (fun t => t.reg 0xA == 0x2B && t.pc == 0x202#16) = true := by decide

/-! ### Witnesses: states and operands that meet the hypotheses of the statements -/

theorem witness_ShiftsByOne :
    ∃ (s : State) (src : Nat), s.params.shiftQuirk = .vy ∧
      src = (if s.params.shiftQuirk = .vx then s.reg 0 else s.reg 1).toNat := ⟨{ regs [(0, 1), (1, 255)] with params := { Params.default with shiftQuirk := .vy } }, 255, by decide⟩
theorem witness_CallPushesOrOverflows :
    ∃ s s' : State, s.sp.toNat < 16 ∧ s.sp.toNat = 15 ∧ s'.sp.toNat = 16 := ⟨{ State.reset with sp := 15#8 }, { State.reset with sp := 16#8 }, by decide⟩
theorem witness_RetPopsOrUnderflows :
    ∃ (s s' : State) (k : Fin 16), s.sp.toNat = k.val + 1 ∧ k = 15 ∧ s'.sp.toNat = 0 := ⟨{ State.reset with sp := 16#8 }, State.reset, 15, by decide⟩
theorem witness_IllegalStackPointerStops :
    ∃ s : State, 16 < s.sp.toNat := ⟨{ State.reset with sp := 17#8 }, by decide⟩
theorem witness_CallThenReturn :
    ∃ (nnn : Addr12) (w w' : Word) (s : State), s.nextOp = .executeOne ∧ s.takeOp.nextOp = .executeOne ∧ s.halted = none ∧ s.sp.toNat < 16 ∧
      s.fetch = some w ∧ decodeWord w = .ok (.call nnn) ∧
      State.fetch { s with pc := zextAddr nnn } = some w' ∧ decodeWord w' = .ok .ret := 
  ⟨0x300, 0x2300, 0x00EE, { State.reset with mem := [(0x200, 0x23), (0x301, 0xEE)] }, by decide⟩
theorem witness_BcdStore :
    ∃ s s' : State, s.i.toNat + 2 ≤ 0xFFF ∧ s.i.toNat = 0xFFD ∧ 0xFFF < s'.i.toNat + 2 ∧ s'.i.toNat = 0xFFE := ⟨atI 0xFFD#16 State.reset, atI 0xFFE#16 State.reset, by decide⟩
theorem witness_StoreRegisters :
    ∃ (x k : Reg) (s s' : State), s.i.toNat + x.val ≤ 0xFFF ∧ s.i.toNat = 0xFF0 ∧ k.val ≤ x.val ∧ k = 15 ∧
      0xFFF < s'.i.toNat + x.val ∧ s'.i.toNat = 0xFF1 := ⟨15, 15, atI 0xFF0#16 State.reset, atI 0xFF1#16 State.reset, by decide⟩
theorem witness_LoadRegisters :
    ∃ (x k : Reg) (s s' : State), s.i.toNat + x.val ≤ 0xFFF ∧ s.i.toNat = 0xFFF ∧ x.val < k.val ∧
      0xFFF < s'.i.toNat + x.val := ⟨0, 1, atI 0xFFF#16 State.reset, atI 0x1000#16 State.reset, by decide⟩
theorem witness_StoredCodeIsFetched :
    ∃ (x k : Reg) (s : State) (w : Word), s.i.toNat + x.val ≤ 0xFFF ∧ k.val < x.val ∧ w.toNat = s.i.toNat + k.val := ⟨1, 0, atI 0xFFE#16 State.reset, 0xFFE, by decide⟩
theorem witness_DrawTogglesSprite_in :
    ∃ (n m : Fin 16) (s s' : State), (n.val = 0 ∨ s.i.toNat + n.val - 1 ≤ 0xFFF) ∧ n = 0 ∧ s.i = 0xFFFF#16 ∧
      (m.val = 0 ∨ s'.i.toNat + m.val - 1 ≤ 0xFFF) ∧ m = 15 ∧ s'.i = 0xFF1#16 := ⟨0, 15, atI 0xFFFF#16 State.reset, atI 0xFF1#16 State.reset, by decide⟩
theorem witness_DrawTogglesSprite_out :
    ∃ (n : Fin 16) (s : State), n.val ≠ 0 ∧ 0xFFF < s.i.toNat + n.val - 1 ∧ s.i = 0xFFF#16 := ⟨2, atI 0xFFF#16 State.reset, by decide⟩
theorem witness_DrawTogglesSprite_covered :
    ∃ s : State, SpriteCovers s 0 1 1 0 0 ∧ Display.cell s.disp 0 0 = true ∧ s.i.toNat + 1 - 1 ≤ 0xFFF :=
  ⟨atI 0xFFF#16 (poke 0xFFF 0x80 (State.reset.setDisp (Display.setCell Display.clear 0 0 true))),
    ⟨0, 0, by decide⟩, by decide⟩
theorem witness_DrawTogglesSprite_uncovered :
    ∃ s : State, ¬ SpriteCovers s 0 1 0 0 0 ∧ ¬ ∃ px py, SpriteCovers s 0 1 0 px py ∧ Display.cell s.disp px py = true :=
  ⟨State.reset, fun ⟨row, _, hr, _⟩ => by simp at hr, fun ⟨_, _, ⟨row, _, hr, _⟩, _⟩ => by simp at hr⟩
theorem witness_CollisionLaw :
    ∃ (n : Fin 16) (s : State), (n.val = 0 ∨ s.i.toNat + n.val - 1 ≤ 0xFFF) ∧ n = 15 ∧ s.i = 0xFF1#16 :=
  ⟨15, atI 0xFF1#16 State.reset, by decide⟩
/-- The state after the glyph of digit 0 is drawn at (0, 0) on the empty display of State.reset. -/
def zeroDrawn : State :=
  let d := Display.drawSprite State.reset.disp 0#8 0#8 (State.reset.mem.readBytes 0 5)
  ((State.reset.setDisp d.1).setFlag d.2).setOut Output.ok
theorem witness_DrawTwiceRestores :
    ∃ (n : Fin 16) (s t t' : State), (n.val = 0 ∨ s.i.toNat + n.val - 1 ≤ 0xFFF) ∧ exec (.drw 15 1 n) s = .next t ∧
      t'.i = s.i ∧ t'.reg 15 = s.reg 15 ∧ t'.reg 1 = s.reg 1 ∧
      (∀ row : Nat, row < n.val → t'.mem.read (s.i.toNat + row) = s.mem.read (s.i.toNat + row)) ∧
      Part.same .disp t t' :=
  ⟨5, State.reset, zeroDrawn, zeroDrawn, by decide, rfl, rfl, by decide, by decide, fun _ _ => rfl, fun _ _ => rfl⟩
theorem witness_CoordinatesWrap :
    ∃ (n : Fin 16) (s s' : State), (n.val = 0 ∨ s.i.toNat + n.val - 1 ≤ 0xFFF) ∧ s'.i = s.i ∧
      (∀ a : Nat, s'.mem.read a = s.mem.read a) ∧ Part.same .disp s s' ∧ s'.reg 0 ≠ s.reg 0 ∧
      (s'.reg 0).toNat % 64 = (s.reg 0).toNat % 64 ∧ (s'.reg 1).toNat % 32 = (s.reg 1).toNat % 32 :=
  ⟨5, regs [(0, 0xFF), (1, 0xFF)], regs [(0, 0x3F), (1, 0x1F)], by decide, rfl, fun _ => rfl, fun _ _ => rfl, by decide⟩
/-- At Vx = 62, Vy = 31 the fourth column of the second row is the cell (1, 0). -/
theorem witness_CoordinatesWrap_edge :
    ∃ (n : Fin 16) (s : State) (row col : Nat) (px : Fin 64) (py : Fin 32),
      s.i.toNat + n.val - 1 ≤ 0xFFF ∧ (s.reg 0).toNat = 62 ∧ (s.reg 1).toNat = 31 ∧ row < n.val ∧ col < 8 ∧
      (s.mem.read (s.i.toNat + row)).getLsbD (7 - col) = true ∧
      px.val = ((s.reg 0).toNat + col) % 64 ∧ py.val = ((s.reg 1).toNat + row) % 32 ∧ px = 1 ∧ py = 0 :=
  ⟨5, regs [(0, 62), (1, 31)], 1, 3, 1, 0, by decide⟩
theorem witness_KeySkips :
    ∃ (s s' : State) (k : KeyIx), (s.reg 0).toNat = k.val ∧ k = 15 ∧ 15 < (s'.reg 0).toNat :=
  ⟨regs [(0, 15)], regs [(0, 16)], 15, by decide⟩
theorem witness_KeyWait_down :
    ∃ (s : State) (k : KeyIx), s.nextOp = .executeOne ∧ s.halted = none ∧ s.fetch = some (encode (.ldK 3)) ∧
      s.keyDown k = true ∧ ∀ j : KeyIx, j < k → s.keyDown j = false :=
  ⟨(press [15] State.reset).setMem [(0x200, 0xF3), (0x201, 0x0A)], 15, by decide⟩
theorem witness_KeyWait_up :
    ∃ (s : State) (ops rest : List Operation), s.halted = none ∧ s.fetch = some (encode (.ldK 3)) ∧
      (∀ k : KeyIx, s.keyDown k = false) ∧ s.pending = ops ++ rest ∧
      (∀ op ∈ ops, op = .executeOne ∨ op = .tick) ∧ ops = [.executeOne, .tick, .executeOne] :=
  ⟨(State.reset.setMem [(0x200, 0xF3), (0x201, 0x0A)]).driven [.executeOne, .tick, .executeOne, .reset] .calls,
    [.executeOne, .tick, .executeOne], [.reset], by decide⟩
theorem witness_TickCountsDown :
    ∃ (s s' : State) (c : Fatal), s.nextOp = .tick ∧ s.halted = none ∧ s.st = 1#8 ∧
      s'.nextOp = .tick ∧ s'.halted = some c :=
  ⟨{ State.reset with st := 1#8, pending := [.tick] },
    { State.reset with halted := some (.stackUnderflow 0#16), pending := [.tick] }, .stackUnderflow 0#16, by decide⟩
theorem witness_TickCountsDown_cue : ∃ s t : State, step s = .next t ∧ t.out.result = .cue true :=
  ⟨{ State.reset with st := 1#8, pending := [.tick] }, _, rfl, by decide⟩
theorem witness_OneCuePerExpiry :
    ∃ s : State, s.nextOp = .tick ∧ s.takeOp.nextOp = .tick ∧ s.halted = none ∧ s.st = 1#8 :=
  ⟨{ State.reset with st := 1#8, pending := [.tick, .tick] }, by decide⟩
theorem witness_host_operations :
    ∃ s s1 s2 s3 : State, s.nextOp = .reset ∧ s1.nextOp = .setKey 15 true ∧
      s2.nextOp = .readDisplay ∧ s3.nextOp = .loadFont conventionalFont :=
  ⟨{ State.reset with pending := [.reset] }, { State.reset with pending := [.setKey 15 true, .tick] },
    { State.reset with pending := [.readDisplay] }, { State.reset with pending := [.loadFont conventionalFont] },
    rfl, rfl, rfl, rfl⟩
theorem witness_LoadProgramOperation_taken :
    ∃ (s : State) (image : List Byte), s.nextOp = .loadProgram image ∧
      (image.length ≤ 3584 ∨ s.params.loaderOversize = .truncate) ∧ image.length = 3584 :=
  ⟨{ State.reset with pending := [.loadProgram (List.replicate 3584 1)] }, _, rfl, .inr rfl, List.length_replicate⟩
theorem witness_LoadProgramOperation_truncated :
    ∃ (s : State) (image : List Byte), s.nextOp = .loadProgram image ∧
      (image.length ≤ 3584 ∨ s.params.loaderOversize = .truncate) ∧ image.length = 3585 :=
  ⟨{ State.reset with pending := [.loadProgram (List.replicate 3585 1)] }, _, rfl, .inr rfl, List.length_replicate⟩
theorem witness_LoadProgramOperation_rejected :
    ∃ (s : State) (image : List Byte), s.nextOp = .loadProgram image ∧ 3584 < image.length ∧
      s.params.loaderOversize = .reject :=
  ⟨{ State.reset with params := { Params.default with loaderOversize := .reject },
                      pending := [.loadProgram (List.replicate 3585 1)] }, _, rfl, by
    rw [List.length_replicate]; decide, rfl⟩
theorem witness_CreateSession :
    ∃ (p p' : Params) (image image' : List Byte),
      (image.length ≤ 3584 ∨ p.loaderOversize = .truncate) ∧ image[0]? = some 0x60#8 ∧
      3584 < image'.length ∧ p'.loaderOversize = .reject :=
  ⟨Params.default, { Params.default with loaderOversize := .reject }, [0x60], List.replicate 3585 1, .inr rfl, rfl, by
    rw [List.length_replicate]; decide, rfl⟩
theorem witness_FetchBigEndianInBounds :
    ∃ s s' : State, s.pc.toNat + 1 ≤ 0xFFF ∧ s.pc = 0xFFE#16 ∧ 0xFFF < s'.pc.toNat + 1 ∧ s'.pc = 0xFFF#16 ∧
      s'.nextOp = .executeOne ∧ s'.halted = none :=
  ⟨State.reset.setPc 0xFFE, State.reset.setPc 0xFFF, by decide⟩
theorem witness_StepRunsDecoded :
    ∃ (s : State) (w : Word) (i : Instr), s.nextOp = .executeOne ∧ s.halted = none ∧ s.fetch = some w ∧
      decodeWord w = .ok i ∧ i = .drw 2 3 5 ∧ s.pending = .executeOne :: [.tick] :=
  ⟨(State.reset.setMem [(0x200, 0xD2), (0x201, 0x35)]).driven [.executeOne, .tick] (.free 0), 0xD235, .drw 2 3 5,
    by decide⟩
theorem witness_StepRunsDecoded_calls : ∃ s : State, s.pending = [] ∧ s.driver = .calls := ⟨State.reset, rfl, rfl⟩
theorem witness_PlacedWordRuns :
    decodeTableWord 16 0xD235 = some (.drw 2 3 5) ∧ ∃ s : State, s.pc.toNat + 1 ≤ 0xFFF ∧ s.pc = 0xFFE#16 :=
  ⟨by decide, State.reset.setPc 0xFFE, by decide⟩
theorem witness_UnknownOpcodeContinues :
    ∃ (s s' : State) (w w' : Word) (e : DecodeError) (nnn : Addr12), s.nextOp = .executeOne ∧ s.halted = none ∧
      s.fetch = some w ∧ decodeWord w = .error e ∧ s'.nextOp = .executeOne ∧ s'.halted = none ∧ s'.fetch = some w' ∧
      decodeWord w' = .ok (.sys nnn) :=
  ⟨State.reset.setMem [(0x200, 0x80), (0x201, 0x08)], State.reset, 0x8008, 0, .unknownAluOp 8, 0, by decide⟩
theorem witness_DecodeEncode : Instr.wellFormed (.sys 0xFFF#12) = true ∧ Instr.wellFormed (.drw 15 15 15) = true := by
  decide
theorem witness_EncodeDecode : decodeWord 0x5F0F#16 = .ok (.seReg 15 0) := by decide
theorem witness_MemoryStaysCanonical : ∃ s t : State, s.memCanonical ∧ s.mem ≠ [] ∧ step s = .next t :=
  ⟨State.reset.setMem [(0x200, 0x12)], _, by simp [State.memCanonical, State.setMem]; decide, by decide, rfl⟩
theorem witness_CanonicalMemoriesAreEqual :
    ∃ m m' : Memory, m.wf ∧ m'.wf ∧ (∀ a : Nat, m.read a = m'.read a) ∧ m ≠ [] :=
  ⟨[(0, 0x12), (0x200, 1)], [(0, 0x12), (0x200, 1)], by decide, by decide, fun _ => rfl, by decide⟩
theorem witness_StackPointerStaysLegal :
    ∃ s t s16 s0 : State, s.spLegal ∧ step s = .next t ∧ s16.sp = 16#8 ∧ s0.sp = 0#8 :=
  ⟨State.reset, _, { State.reset with sp := 16#8 }, State.reset, by simp [State.spLegal, State.reset], rfl, rfl, rfl⟩
theorem witness_ProgramCounterStaysReachable : ∃ s t : State, s.pcReachable ∧ step s = .next t :=
  ⟨State.reset, _, ⟨by decide, by decide⟩, rfl⟩
theorem witness_EveryCallReturnsAStatus : ∃ s : State, s.spLegal ∧ s.nextOp = .executeOne :=
  ⟨State.reset, by simp [State.spLegal, State.reset], rfl⟩
theorem witness_FatalLeavesNoPartialWrite :
    ∃ (s t : State) (c : Fatal), s.halted = none ∧ step s = .next t ∧ t.halted = some c :=
  ⟨State.reset.setPc 0xFFF, _, _, rfl, rfl, rfl⟩
theorem witness_HaltedIsForever :
    ∃ (s s' t : State) (c : Fatal), s.halted = some c ∧ step s = .next t ∧ s.nextOp = .executeOne ∧ s'.halted = some c ∧
      s'.nextOp = .tick :=
  ⟨{ State.reset with halted := some (.stackUnderflow 0#16) },
    { State.reset with halted := some (.stackUnderflow 0#16), pending := [.tick] }, _, .stackUnderflow 0#16,
    rfl, rfl, rfl, rfl, rfl⟩
theorem witness_OnlyClearAndDrawChangeDisplay :
    ∃ s t : State, step s = .next t ∧ ¬ Part.same .disp s t :=
  ⟨(State.reset.setMem [(0x200, 0x00), (0x201, 0xE0)]).setDisp (Display.setCell Display.clear 0 0 true), _, rfl,
    fun h => absurd (h 0 0) (by decide)⟩
theorem witness_OnlySetKeyChangesKeys : ∃ s t : State, step s = .next t ∧ ¬ Part.same .key s t :=
  ⟨{ State.reset with pending := [.setKey 0 true] }, _, rfl, fun h => absurd (h 0) (by decide)⟩
theorem witness_ControlStateWriters :
    (∃ s t : State, exec (.ldI 1) s = .next t ∧ t.i ≠ s.i) ∧
    (∃ s t : State, exec (.call 1) s = .next t ∧ t.stack ≠ s.stack ∧ t.sp ≠ s.sp) ∧
    (∃ s t : State, exec (.ldDt 0) s = .next t ∧ t.dt ≠ s.dt) ∧
    (∃ s t : State, exec (.ldSt 0) s = .next t ∧ t.st ≠ s.st) :=
  ⟨⟨State.reset, _, rfl, by decide⟩, ⟨State.reset, _, rfl, by decide⟩, ⟨regs [(0, 1)], _, rfl, by decide⟩,
    ⟨regs [(0, 1)], _, rfl, by decide⟩⟩
theorem witness_OnlyStoresChangeMemory : ∃ s t : State, step s = .next t ∧ ¬ Part.same .mem s t :=
  ⟨{ regs [(0, 7)] with mem := [(0x200, 0xF0), (0x201, 0x55)], i := 0xFFF#16 }, _, rfl,
    fun h => absurd (h 0xFFF) (by decide)⟩
theorem witness_ParametersAreFixed : ∃ s t : State, step s = .next t := ⟨State.reset, _, rfl⟩
theorem witness_SelfJumpRests :
    ∃ (s : State) (ops rest : List Operation), s.halted = none ∧ s.atSelfJump ∧ s.nextOp = .executeOne ∧
      s.pending = ops ++ rest ∧
      (∀ op ∈ ops, op = .executeOne ∨ op = .tick ∨ op = .readDisplay ∨ ∃ k b, op = .setKey k b) ∧
      ops = [.executeOne, .tick, .executeOne] :=
  ⟨(State.reset.setMem [(0x200, 0x12)]).driven [.executeOne, .tick, .executeOne] .calls,
    [.executeOne, .tick, .executeOne], [], rfl, ⟨0x200#12, by decide, by decide⟩, rfl, rfl, by simp, rfl⟩
theorem witness_InvariantsHoldAtReset :
    ∃ (p : Params) (font : Vector Byte 80) (image : List Byte) (s : State), State.create p font image = some s :=
  ⟨Params.default, Vector.replicate 80 0, [0x12], _, rfl⟩

end Sys2Proof.Tests
end

section
/-! The parameters are inputs (00_scope.md R9, notes/assumptions/1.md): no instruction, no operation and so no step
writes them. -/
namespace Sys2Proof.Machine

/-- No instruction writes the parameters: no shape of an answer touches them. -/
theorem exec_params {i : Instr} {s t : State} (h : exec i s = .next t) : t.params = s.params := by
  cases exec_shape h <;> rfl

/-- `executeOne()` keeps the parameters, whichever of its answers it gives (60_exceptions.md R247). -/
theorem executeOne_params {s t : State} (h : executeOne s = .next t) : t.params = s.params := by
  obtain ⟨c, -, rfl⟩ | ⟨-, -, rfl⟩ | ⟨-, w, e, -, -, hraise⟩ | ⟨-, w, i, -, -, hexec⟩ := executeOne_cases h
  · exact s.stayHalted_params c
  · exact s.recordFatal_params _
  · cases hraise
    rfl
  · exact (exec_params hexec).trans s.advance_params

/-- No operation writes the parameters (10_state.md R43). -/
theorem State.perform_params {op : Operation} {s t : State} (h : s.perform op = .next t) : t.params = s.params := by
  cases op with
  | executeOne => exact executeOne_params h
  | _ => cases h; simp

/-- No step writes the parameters: taking an operation from the schedule does not, and performing it does not. -/
theorem step_params {s t : State} (h : step s = .next t) : t.params = s.params :=
  (State.perform_params h).trans s.takeOp_params

/-- Settles O59: a step's operation keeps the parameters, and the schedule is as taking that operation leaves it. -/
theorem parametersAreFixed : Obligations.ParametersAreFixed :=
  fun _ _ h => ⟨step_params h, step_schedule h⟩

end Sys2Proof.Machine
end

section
/-! What a step does to one part of the state, said once for the invariants and the writers of 10_state.md: a step is
another operation than a call, a call that executes nothing, or an instruction, of which `exec_shape` speaks. -/
namespace Sys2Proof.Machine

/-- The three kinds of step that answers: another operation; a call that executes no instruction (halted, fetch out of
bounds, unknown word) and so writes no more than PC, `halted` and the output; a call that executes the fetched one. -/
theorem step_kinds {s t : State} (h : step s = .next t) :
    (s.nextOp ≠ .executeOne ∧ s.takeOp.perform s.nextOp = .next t) ∨
    (∃ p c o, t = { s.takeOp with pc := p, halted := c, out := o } ∧
      (p = s.pc ∨ s.fetch ≠ none ∧ p = s.pc + instrSize)) ∨
    (s.nextOp = .executeOne ∧ ∃ w i, s.fetch = some w ∧ decodeWord w = .ok i ∧ exec i s.takeOp.advance = .next t) := by
  obtain hop | ⟨-, c, -, rfl⟩ | ⟨-, -, -, rfl⟩ | ⟨-, -, w, e, hf, -, hraise⟩ | ⟨hn, -, hexec⟩ := step_cases h
  · exact .inl hop
  · exact .inr (.inl ⟨_, _, _, rfl, .inl rfl⟩)
  · exact .inr (.inl ⟨_, _, _, rfl, .inl rfl⟩)
  · cases hraise
    exact .inr (.inl ⟨_, _, _, rfl, .inr ⟨by simp [hf], rfl⟩⟩)
  · exact .inr (.inr ⟨hn, hexec⟩)

/-- Where a word is fetched, the fetch advance leaves PC at 2..0x1000: it does not wrap (10_state.md R28). -/
theorem State.pc_advance_bounds {s : State} (hf : s.fetch ≠ none) :
    2 ≤ (s.pc + instrSize).toNat ∧ (s.pc + instrSize).toNat ≤ 0x1000 := by
  have hpc : s.pc.toNat + 1 ≤ 0xFFF := by simpa [State.fetch_eq_none, lastAddress] using hf
  unfold instrSize
  bv_omega

/-- No operation but `executeOne()` leaves the stack, SP or PC otherwise than it was or as `reset()` sets it. -/
theorem State.perform_control {op : Operation} {s t : State} (hop : op ≠ .executeOne) (h : s.perform op = .next t) :
    (t.pc = s.pc ∧ t.stack = s.stack ∧ t.sp = s.sp) ∨
      (t.pc = State.reset.pc ∧ t.stack = State.reset.stack ∧ t.sp = State.reset.sp) := by
  cases op with
  | executeOne => exact absurd rfl hop
  | reset => cases h; exact .inr ⟨rfl, rfl, rfl⟩
  | _ => cases h; exact .inl (by simp)

end Sys2Proof.Machine
end

section
/-! SP stays in 0..16 and both stack limits raise (10_state.md R31). -/
namespace Sys2Proof.Machine

/-- SP is legal at session creation. -/
theorem State.reset_spLegal : State.reset.spLegal := Nat.zero_le _

/-- An instruction keeps SP legal: CALL pushes to a slot that exists, RET pops from one. -/
theorem exec_spLegal {i : Instr} {s t : State} (h : exec i s = .next t) (hs : s.spLegal) : t.spLegal := by
  cases exec_shape h with
  | called nnn k hi hk =>
    show (s.sp + 1#8).toNat ≤ 16
    bv_omega
  | returned k hi hk =>
    show (BitVec.ofNat 8 k.val).toNat ≤ 16
    rw [BitVec.toNat_ofNat]
    omega
  | _ => exact hs

/-- No step takes SP out of 0..16. -/
theorem step_spLegal {s t : State} (h : step s = .next t) (hs : s.spLegal) : t.spLegal := by
  obtain ⟨hop, hperform⟩ | ⟨p, c, o, rfl, -⟩ | ⟨-, w, i, -, -, hexec⟩ := step_kinds h
  · obtain ⟨-, -, hsp⟩ | ⟨-, -, hsp⟩ := State.perform_control hop hperform
    · unfold State.spLegal
      rwa [hsp]
    · unfold State.spLegal
      rw [hsp]
      exact State.reset_spLegal
  · exact hs
  · exact exec_spLegal hexec hs

/-- A CALL with a full stack raises StackOverflow (60_exceptions.md R242). -/
theorem execCall_full (nnn : Addr12) {s : State} (hs : s.sp = 16#8) :
    exec (.call nnn) s = s.raiseFatal (.stackOverflow s.instrAddr) := if_pos hs

/-- A RET with an empty stack raises StackUnderflow (60_exceptions.md R243). -/
theorem execRet_empty {s : State} (hs : s.sp = 0#8) :
    exec .ret s = s.raiseFatal (.stackUnderflow s.instrAddr) := if_pos hs

/-- Settles O49: the step lemma for the bound, and the raised conditions at the two limits. -/
theorem stackPointerStaysLegal : Obligations.StackPointerStaysLegal := by
  refine ⟨fun s t hs h => step_spLegal h hs, fun nnn s hs => ?_, fun s hs => ?_⟩
  · rw [execCall_full nnn hs]
    exact s.raiseFatal_spec _
  · rw [execRet_empty hs]
    exact s.raiseFatal_spec _

end Sys2Proof.Machine
end

section
/-! PC stays at most 0x10FE and every stack slot at most 0x1000 (10_state.md R28, 40_control_flow.md R101). -/
namespace Sys2Proof.Machine

/-- Both bounds hold at session creation. -/
theorem State.reset_pcReachable : State.reset.pcReachable := ⟨by decide, by decide⟩

/-- The bounds depend on PC and the stack alone. -/
theorem State.pcReachable_congr {s t : State} (hs : s.pcReachable) (hpc : t.pc = s.pc) (hstack : t.stack = s.stack) :
    t.pcReachable := by
  unfold State.pcReachable
  rwa [hpc, hstack]

/-- An instruction after the fetch advance keeps both bounds: a skip adds 2 to at most 0x1000, a key wait goes back to
P, a jump is at most 0xFFF + 0xFF, CALL pushes the advanced PC and RET pops a slot. -/
theorem exec_pcReachable {i : Instr} {s t : State} (h : exec i s = .next t) (hlow : 2 ≤ s.pc.toNat)
    (hhigh : s.pc.toNat ≤ 0x1000) (hstack : ∀ k : Fin 16, (s.stack.get k).toNat ≤ 0x1000) : t.pcReachable := by
  have hkept : s.pcReachable := ⟨by omega, hstack⟩
  cases exec_shape h with
  | moved p o hp =>
    refine ⟨?_, hstack⟩
    show p.toNat ≤ 0x10FE
    rcases hp with rfl | rfl | hp
    · bv_omega
    · bv_omega
    · exact hp
  | called nnn k hi hk =>
    refine ⟨?_, fun j => ?_⟩
    · show (zextAddr nnn).toNat ≤ 0x10FE
      rw [zextAddr, BitVec.toNat_setWidth]
      omega
    · show ((s.pushPc k).stack.get j).toNat ≤ 0x1000
      rw [State.stack_pushPc]
      split
      · exact hhigh
      · exact hstack j
  | returned k hi hk => exact ⟨(hstack k).trans (by decide), hstack⟩
  | _ => exact hkept

/-- No step takes PC above 0x10FE or a stack slot above 0x1000. -/
theorem step_pcReachable {s t : State} (h : step s = .next t) (hs : s.pcReachable) : t.pcReachable := by
  obtain ⟨hop, hperform⟩ | ⟨p, c, o, rfl, hp⟩ | ⟨-, w, i, hf, -, hexec⟩ := step_kinds h
  · obtain ⟨hpc, hstack, -⟩ | ⟨hpc, hstack, -⟩ := State.perform_control hop hperform
    · exact State.pcReachable_congr hs hpc hstack
    · exact State.pcReachable_congr State.reset_pcReachable hpc hstack
  · obtain rfl | ⟨hf, rfl⟩ := hp
    · exact hs
    · exact ⟨(State.pc_advance_bounds hf).2.trans (by decide), hs.2⟩
  · obtain ⟨hlow, hhigh⟩ := State.pc_advance_bounds (s := s) (by simp [hf])
    exact exec_pcReachable hexec hlow hhigh hs.2

/-- Settles O50: the step lemma for the bounds on PC and the stack. -/
theorem programCounterStaysReachable : Obligations.ProgramCounterStaysReachable :=
  fun _ _ hs h => step_pcReachable h hs

end Sys2Proof.Machine
end

section
/-! A recorded condition stays, and a halted session's calls and ticks change nothing (10_state.md R38, 60_exceptions.md
R245). -/
namespace Sys2Proof.Machine

/-- A tick in a halted session returns its condition, as a call does. -/
theorem State.tick_of_halted {s : State} {c : Fatal} (hc : s.halted = some c) : s.tick = s.stayHalted c := by
  simp [State.tick, hc]

/-- A call or a tick in a halted session returns its condition and does nothing else. -/
theorem step_of_halted {s : State} {c : Fatal} (hc : s.halted = some c)
    (hop : s.nextOp = .executeOne ∨ s.nextOp = .tick) : step s = .next (s.takeOp.stayHalted c) := by
  rcases hop with hn | hn
  · exact step_halted hn hc
  · rw [step_operation hn, ← State.tick_of_halted (s := s.takeOp) hc]
    rfl

/-- No step clears or changes a recorded condition. -/
theorem step_keeps_condition {s t : State} {c : Fatal} (hc : s.halted = some c) (h : step s = .next t) :
    t.halted = some c := by
  by_cases hn : s.nextOp = .executeOne
  · rw [step_halted hn hc] at h
    cases h
    exact hc
  · exact (State.perform_halted hn h).trans hc

/-- Settles O54: no step clears the condition, and a call or a tick sets nothing but the output. -/
theorem haltedIsForever : Obligations.HaltedIsForever :=
  ⟨rfl, fun _ _ hc => ⟨fun _ h => step_keeps_condition hc h,
    fun hop => ⟨_, step_of_halted hc hop, OthersKept.setOut _ _, rfl⟩⟩⟩

end Sys2Proof.Machine
end

section
/-! The writers of the display, the keys and the control state (10_state.md R25, R30 to R34, R36, R40). -/
namespace Sys2Proof.Machine

/-- No operation but `executeOne()` writes the display (10_state.md R34). -/
theorem State.perform_disp {op : Operation} {s t : State} (hop : op ≠ .executeOne) (h : s.perform op = .next t) :
    t.disp = s.disp := by
  cases op with
  | executeOne => exact absurd rfl hop
  | _ => cases h; simp

/-- The instructions that write the display are CLS and DRW. -/
theorem exec_disp_writers {i : Instr} {s t : State} (h : exec i s = .next t) (hne : t.disp ≠ s.disp) :
    i = .cls ∨ ∃ x y n, i = .drw x y n := by
  cases exec_shape h with
  | drawn v d hi => exact hi
  | _ => exact absurd rfl hne

/-- Settles O55: neither another operation nor a call that executes nothing writes the display, and among the
instructions only CLS and DRW do. -/
theorem onlyClearAndDrawChangeDisplay : Obligations.OnlyClearAndDrawChangeDisplay := by
  intro s t h hcells
  have hne : t.disp ≠ s.disp := fun heq => hcells fun px py => by rw [heq]
  obtain ⟨hop, hperform⟩ | ⟨p, c, o, rfl, -⟩ | ⟨hn, w, i, hf, hi, hexec⟩ := step_kinds h
  · exact absurd (State.perform_disp hop hperform) hne
  · exact absurd rfl hne
  · exact ⟨hn, w, i, hf, hi, exec_disp_writers hexec hne⟩

/-- No instruction writes a key (10_state.md R36). -/
theorem exec_key {i : Instr} {s t : State} (h : exec i s = .next t) : t.key = s.key := by
  cases exec_shape h <;> rfl

/-- Of the operations other than `executeOne()`, only `setKey` writes a key. -/
theorem State.perform_key_writers {op : Operation} {s t : State} (hop : op ≠ .executeOne)
    (h : s.perform op = .next t) (hne : t.key ≠ s.key) : ∃ k b, op = .setKey k b := by
  cases op with
  | executeOne => exact absurd rfl hop
  | setKey k b => exact ⟨k, b, rfl⟩
  | _ => cases h; simp at hne

/-- Settles O56: no call writes a key, whether it executes an instruction or not, and of the other operations only
`setKey` does. -/
theorem onlySetKeyChangesKeys : Obligations.OnlySetKeyChangesKeys := by
  intro s t h hkeys
  have hne : t.key ≠ s.key := fun heq => hkeys fun k => by rw [State.keyDown, heq, State.keyDown]
  obtain ⟨hop, hperform⟩ | ⟨p, c, o, rfl, -⟩ | ⟨-, w, i, -, -, hexec⟩ := step_kinds h
  · exact State.perform_key_writers hop hperform hne
  · exact absurd rfl hne
  · exact absurd (exec_key hexec) hne

section
variable {i : Instr} {s t : State} (h : exec i s = .next t)
include h

/-- The instructions that write I (10_state.md R25). -/
theorem exec_i_writers (hne : t.i ≠ s.i) : (∃ nnn, i = .ldI nnn) ∨ (∃ x, i = .addI x) ∨ ∃ x, i = .ldF x := by
  cases exec_shape h with
  | index w hi => exact hi
  | _ => exact absurd rfl hne

/-- The instruction that writes the stack (10_state.md R30). -/
theorem exec_stack_writers (hne : t.stack ≠ s.stack) : ∃ nnn, i = .call nnn := by
  cases exec_shape h with
  | called nnn k hi => exact ⟨nnn, hi⟩
  | _ => exact absurd rfl hne

/-- The instructions that write SP (10_state.md R40). -/
theorem exec_sp_writers (hne : t.sp ≠ s.sp) : (∃ nnn, i = .call nnn) ∨ i = .ret := by
  cases exec_shape h with
  | called nnn k hi => exact .inl ⟨nnn, hi⟩
  | returned k hi => exact .inr hi
  | _ => exact absurd rfl hne

/-- The instruction that writes DT (10_state.md R32). -/
theorem exec_dt_writers (hne : t.dt ≠ s.dt) : ∃ x, i = .ldDt x := by
  cases exec_shape h with
  | delay x hi => exact ⟨x, hi⟩
  | _ => exact absurd rfl hne

/-- The instruction that writes ST (10_state.md R33). -/
theorem exec_st_writers (hne : t.st ≠ s.st) : ∃ x, i = .ldSt x := by
  cases exec_shape h with
  | sound x hi => exact ⟨x, hi⟩
  | _ => exact absurd rfl hne

end

/-- Settles O57: the writers of each register, from the shapes of an answer. -/
theorem controlStateWriters : Obligations.ControlStateWriters :=
  fun _ _ _ h => ⟨exec_i_writers h, exec_stack_writers h, exec_sp_writers h, exec_dt_writers h, exec_st_writers h⟩

end Sys2Proof.Machine
end

section
/-! The state at session creation (10_state.md R41, 70_reset_and_hazards.md R282, R284). -/
namespace Sys2Proof.Machine

/-- Writing the byte an address holds at creation into the memory at creation lists nothing. -/
theorem Memory.write_initialByte (a : Nat) : Memory.write [] a (initialByte a) = [] := if_pos rfl

/-- The same for a sequence of such bytes. -/
theorem Memory.writeBytes_initialByte (a : Nat) (bs : List Byte)
    (hbs : ∀ (j : Nat) (hj : j < bs.length), bs[j] = initialByte (a + j)) : Memory.writeBytes [] a bs = [] := by
  induction bs generalizing a with
  | nil => rfl
  | cons b bs ih =>
    have hb : b = initialByte a := hbs 0 (by simp)
    rw [Memory.writeBytes_cons, hb, Memory.write_initialByte]
    refine ih (a + 1) fun j hj => ?_
    rw [Nat.add_right_comm]
    exact hbs (j + 1) (Nat.succ_lt_succ hj)

/-- The conventional font is what memory holds at creation, so loading it lists nothing (20_memory.md R66). -/
theorem Memory.withFont_conventionalFont : Memory.withFont [] conventionalFont = [] := by
  refine Memory.writeBytes_initialByte 0 _ fun j hj => ?_
  have hj : j < 80 := by simpa using hj
  simp [initialByte, hj, Vector.get_eq_getElem]

/-- An empty program image is taken under either policy, and leaves memory as it is. -/
theorem Memory.withImage_nil (m : Memory) (policy : LoaderOversize) : m.withImage policy [] = some m :=
  if_pos (Nat.zero_le _)

/-- A created session is State.reset but for its parameters and its memory, which holds the font and the image. -/
theorem State.create_eq_some {p : Params} {font : Vector Byte 80} {image : List Byte} {s : State}
    (h : State.create p font image = some s) :
    ∃ m, (Memory.withFont [] font).withImage p.loaderOversize image = some m ∧
      s = { State.reset with mem := m, params := p } := by
  unfold State.create at h
  split at h
  · next m hm => exact ⟨m, hm, (Option.some.inj h).symm⟩
  · cases h

/-- Every general register is 0 at creation. -/
theorem State.reset_reg (r : Reg) : State.reset.reg r = 0#8 := by
  simp [State.reg, State.reset, Vector.get_eq_getElem]

/-- Settles O38: loading the conventional font and an empty image lists no byte, and the values are read off. -/
theorem resetState : Obligations.ResetState := by
  refine ⟨?_, rfl, rfl, State.reset_reg, fun a ha => initialByte_above_font a ha, by decide⟩
  rw [State.create, Memory.withFont_conventionalFont, Memory.withImage_nil]
  rfl

/-- Settles O51: the loaders keep the memory canonical, and the other bounds are those of State.reset. -/
theorem invariantsHoldAtReset : Obligations.InvariantsHoldAtReset := by
  refine ⟨fun p font image s h => ?_, State.reset_mem_wf, State.reset_spLegal, State.reset_pcReachable⟩
  obtain ⟨m, hm, rfl⟩ := State.create_eq_some h
  exact ⟨Memory.wf_withImage (Memory.wf_withFont Memory.wf_nil font) _ _ hm, State.reset_spLegal,
    State.reset_pcReachable⟩

end Sys2Proof.Machine
end

section
/-! Memory (20_memory.md): its canonical form along every step, its writers, and the fetch. -/
namespace Sys2Proof.Machine

/-! ### The canonical form along every step (R60, R63) -/

/-- An instruction keeps the memory canonical: what it stores is inside the address space. -/
theorem exec_memCanonical {i : Instr} {s t : State} (h : exec i s = .next t) (hs : s.memCanonical) :
    t.memCanonical := by
  cases exec_shape h with
  | stored a bs hi ha => exact Memory.wf_writeBytes hs a bs ha
  | _ => exact hs

/-- Settles O47: every operation keeps the memory canonical, the instructions by their shapes. -/
theorem memoryStaysCanonical : Obligations.MemoryStaysCanonical := by
  intro s t hs h
  obtain ⟨hop, hperform⟩ | ⟨p, c, o, rfl, -⟩ | ⟨-, w, i, -, -, hexec⟩ := step_kinds h
  · exact State.perform_mem_wf hop hperform hs
  · exact hs
  · exact exec_memCanonical hexec hs

/-! ### Canonical memories are determined by what they read (R60) -/

/-- An address that no entry has reads as at creation. -/
theorem Memory.read_unlisted {m : Memory} {a : Nat} (h : a ∉ m.map Prod.fst) : m.read a = initialByte a := by
  induction m with
  | nil => rfl
  | cons c rest ih =>
    obtain ⟨hc, hrest⟩ := not_or.mp (List.mem_cons.not.mp h)
    rw [Memory.read_cons, if_neg (Ne.symm hc), ih hrest]

/-- An entry of a canonical memory is what its address reads. -/
theorem Memory.read_listed {m : Memory} (h : m.wf) {c : Host.Cell} (hc : c ∈ m) : m.read c.1 = c.2 := by
  induction m with
  | nil => cases hc
  | cons d rest ih =>
    obtain ⟨hlt, -, hrest⟩ := Memory.wf_cons.mp h
    rcases List.mem_cons.mp hc with rfl | hc
    · exact if_pos rfl
    · rw [Memory.read_cons, if_neg (hlt c hc).ne, ih hrest hc]

/-- A canonical memory lists exactly the addresses that read otherwise than at creation. -/
theorem Memory.mem_addresses_iff {m : Memory} (h : m.wf) (a : Nat) :
    a ∈ m.map Prod.fst ↔ m.read a ≠ initialByte a := by
  constructor
  · intro ha
    obtain ⟨c, hc, rfl⟩ := List.mem_map.mp ha
    rw [Memory.read_listed h hc]
    exact (h.2 c hc).2
  · exact fun hne => by_contra fun ha => hne (Memory.read_unlisted ha)

/-- A canonical memory is its addresses, each with what it reads. -/
theorem Memory.eq_map_addresses {m : Memory} (h : m.wf) :
    (m.map Prod.fst).map (fun a => (a, m.read a)) = m := by
  have hcell : ∀ c ∈ m, (c.1, m.read c.1) = id c := fun c hc => by rw [Memory.read_listed h hc]; rfl
  rw [List.map_map]
  exact (List.map_congr_left hcell).trans (List.map_id m)

/-- Settles O48: memories that read the same list the same addresses, since both lists rise, and with each the same
byte. -/
theorem canonicalMemoriesAreEqual : Obligations.CanonicalMemoriesAreEqual := by
  intro m m' hm hm' hread
  have haddr : m.map Prod.fst = m'.map Prod.fst := hm.1.eq_of_mem_iff hm'.1 fun a => by
    rw [Memory.mem_addresses_iff hm, Memory.mem_addresses_iff hm', hread]
  rw [← Memory.eq_map_addresses hm, ← Memory.eq_map_addresses hm', haddr]
  simp only [hread]

/-! ### The writers of memory (R63, R68) -/

/-- The instructions that write memory are FX33 and FX55. -/
theorem exec_mem_writers {i : Instr} {s t : State} (h : exec i s = .next t) (hne : t.mem ≠ s.mem) :
    (∃ x, i = .ldB x) ∨ ∃ x, i = .ldStore x := by
  cases exec_shape h with
  | stored a bs hi ha => exact hi
  | _ => exact absurd rfl hne

/-- Of the operations other than `executeOne()`, only the loaders write memory. -/
theorem State.perform_mem_writers {op : Operation} {s t : State} (hop : op ≠ .executeOne)
    (h : s.perform op = .next t) (hne : t.mem ≠ s.mem) :
    (∃ font, op = .loadFont font) ∨ ∃ image, op = .loadProgram image := by
  cases op with
  | executeOne => exact absurd rfl hop
  | loadFont font => exact .inl ⟨font, rfl⟩
  | loadProgram image => exact .inr ⟨image, rfl⟩
  | _ => cases h; simp at hne

/-- Settles O58: of the other operations only the loaders write memory, a call that executes nothing does not, and
among the instructions only FX33 and FX55 do. -/
theorem onlyStoresChangeMemory : Obligations.OnlyStoresChangeMemory := by
  intro s t h hbytes
  have hne : t.mem ≠ s.mem := fun heq => hbytes fun a => by rw [heq]
  obtain ⟨hop, hperform⟩ | ⟨p, c, o, rfl, -⟩ | ⟨hn, w, i, hf, hi, hexec⟩ := step_kinds h
  · exact (State.perform_mem_writers hop hperform hne).imp_right .inl
  · exact absurd rfl hne
  · exact .inr (.inr ⟨hn, w, i, hf, hi, exec_mem_writers hexec hne⟩)

/-! ### The fetch (R64, R65, R75) -/

/-- The memory after FX55: V0..Vx from I on (42_index_memory.md R174). -/
def State.storedMem (s : State) (x : Reg) : Memory := s.mem.writeBytes s.i.toNat (s.regRun x)

/-- FX55 inside the address space completes with the registers stored. -/
theorem exec_ldStore_inside {x : Reg} {s : State} (h : s.i.toNat + x.val ≤ lastAddress) :
    exec (.ldStore x) s = .next ((s.setMem (s.storedMem x)).setOut Output.ok) := by
  rw [exec, execLdStore, State.withRange_inside _ _ _ _ _ (.inr h)]
  rfl

/-- The byte at I + k after FX55 is Vk. -/
theorem State.read_storedMem (s : State) {x k : Reg} (hk : k.val ≤ x.val) :
    (s.storedMem x).read (s.i.toNat + k.val) = s.reg k := by
  have hlen : k.val < (s.regRun x).length := by rw [State.regRun_length]; omega
  rw [State.storedMem, Memory.read_writeBytes_at _ _ _ _ hlen, State.regRun_getElem]

/-- Settles O20: both bytes of the fetch are stored ones, Vk and the register after it. -/
theorem storedCodeIsFetched : Obligations.StoredCodeIsFetched := by
  intro x k s hx hk
  refine ⟨_, exec_ldStore_inside hx, fun w hw => ?_⟩
  have hsucc : (k + 1).val = k.val + 1 := Fin.val_add_one_of_lt' (by omega)
  have hfirst : (s.storedMem x).read w.toNat = s.reg k := by rw [hw, s.read_storedMem hk.le]
  have hsecond : (s.storedMem x).read (w.toNat + 1) = s.reg (k + 1) := by
    rw [hw, Nat.add_assoc, ← hsucc, s.read_storedMem (by omega)]
  have hpc : w.toNat + 1 ≤ lastAddress := by unfold lastAddress; omega
  rw [State.fetch_inside _ hpc]
  simp [hfirst, hsecond]

/-- A call in a running session whose fetch is out of bounds raises that, with PC at P (60_exceptions.md R245, R247). -/
theorem step_fetch_outside {s : State} (hn : s.nextOp = .executeOne) (hc : s.halted = none) (hf : s.fetch = none) :
    step s = s.takeOp.raiseFatal (.outOfBounds .fetch s.pc.toNat s.pc) := by
  simp [step, hn, State.perform, executeOne, hc, hf]

/-- Settles O39: the value of the fetched word, and the condition raised where there is none. -/
theorem fetchBigEndianInBounds : Obligations.FetchBigEndianInBounds := by
  refine fun s => ⟨fun hin => ⟨_, s.fetch_inside hin, wordOfBytes_toNat _ _⟩, fun hout hn hc => ?_⟩
  rw [step_fetch_outside hn hc (s.fetch_eq_none.mpr hout)]
  exact s.takeOp.raiseFatal_spec _

end Sys2Proof.Machine
end

section
/-! Decoding and encoding are inverse (30_encoding.md R81 to R85): every well-formed instruction decodes from its
encoding, and a word that decodes is, in the bits its instruction names, that instruction's encoding. -/
namespace Sys2Proof

/-! ### Decoding an encoding -/

/-- Decoding is the identity on encodings: the family nibble selects the form, the fields give the operands back, and
in family 0 a well-formed SYS has a low byte that selects neither CLS nor RET (R85, R87). -/
theorem decodeWord_encode {i : Instr} (hwf : i.wellFormed = true) : decodeWord (encode i) = .ok i := by
  cases i with
  | sys nnn =>
    obtain ⟨hcls, hret⟩ : Instr.lowByte nnn ≠ 0xE0#8 ∧ Instr.lowByte nnn ≠ 0xEE#8 := by
      simpa [Instr.wellFormed] using hwf
    simp [encode, decodeWord, decodeFamily0, hcls, hret]
  | cls | ret => rfl
  | jp nnn | call nnn | ldI nnn | jpV0 nnn => simp [encode, decodeWord]
  | seImm x nn | sneImm x nn | ldImm x nn | addImm x nn | rnd x nn => simp [encode, decodeWord]
  | seReg x y | sneReg x y | drw x y n => simp [encode, decodeWord]
  | ldReg x y | orReg x y | andReg x y | xorReg x y | addReg x y | sub x y | shr x y | subn x y | shl x y =>
    simp [encode, decodeWord, decodeFamily8]
  | skp x | sknp x => simp [encode, decodeWord, decodeFamilyE]
  | ldVxDt x | ldK x | ldDt x | ldSt x | addI x | ldF x | ldB x | ldStore x | ldLoad x =>
    simp [encode, decodeWord, decodeFamilyF]

/-- The bytes of a word decode as the word does, and the bytes after them are left (20_memory.md R65). -/
theorem decodeBytes_of_decodeWord {w : Word} {i : Instr} (h : decodeWord w = .ok i) (rest : List Byte) :
    decodeBytes (firstByte w :: secondByte w :: rest) = .ok (i, rest) := by
  simp [decodeBytes, h]

/-- Settles O43: the round trip of the word, read from its two bytes. -/
theorem decodeEncode : Obligations.DecodeEncode :=
  fun _ rest hwf => ⟨decodeWord_encode hwf, decodeBytes_of_decodeWord (decodeWord_encode hwf) rest⟩

/-! ### Encoding what was decoded -/

/-- A word is packed of its family and its address field. -/
theorem packNNN_fields (w : Word) : packNNN (fieldF w) (fieldNNN w) = w := by
  apply BitVec.eq_of_toNat_eq
  rw [toNat_packNNN, fieldF_toNat, fieldNNN_toNat]
  omega

/-- A word is packed of its family, its register field x and its low byte. -/
theorem packXNN_fields (w : Word) : packXNN (fieldF w) (fieldX w) (fieldNN w) = w := by
  apply BitVec.eq_of_toNat_eq
  rw [toNat_packXNN, fieldF_toNat, fieldX_val, fieldNN_toNat]
  omega

/-- A word is packed of its four nibbles. -/
theorem packXYN_fields (w : Word) : packXYN (fieldF w) (fieldX w) (fieldY w) (fieldN w) = w := by
  apply BitVec.eq_of_toNat_eq
  rw [toNat_packXYN, fieldF_toNat, fieldX_val, fieldY_val, fieldN_toNat]
  omega

/-- A word with a known family, in the form F nnn. -/
theorem packNNN_of_fields {w : Word} {f : BitVec 4} (hf : fieldF w = f) : packNNN f (fieldNNN w) = w :=
  hf ▸ packNNN_fields w

/-- A word with a known family and low byte, in the form F x nn. -/
theorem packXNN_of_fields {w : Word} {f : BitVec 4} {nn : Byte} (hf : fieldF w = f) (hnn : fieldNN w = nn) :
    packXNN f (fieldX w) nn = w :=
  hf ▸ hnn ▸ packXNN_fields w

/-- A word with a known family and low nibble, in the form F x y n. -/
theorem packXYN_of_fields {w : Word} {f n : BitVec 4} (hf : fieldF w = f) (hn : fieldN w = n) :
    packXYN f (fieldX w) (fieldY w) n = w :=
  hf ▸ hn ▸ packXYN_fields w

/-- The bits of 5XYn and 9XYn that are named: all but the low nibble (D5). -/
theorem packXYN_and_named (f : BitVec 4) (x y : Reg) (n : BitVec 4) :
    packXYN f x y n &&& 0xFFF0#16 = packXYN f x y 0x0#4 := by
  change (f ++ (nibble x ++ (nibble y ++ n)) : BitVec (4 + (4 + (4 + 4)))) &&&
    (BitVec.allOnes 4 ++ (BitVec.allOnes 4 ++ (BitVec.allOnes 4 ++ 0x0#4))) = packXYN f x y 0x0#4
  simp only [BitVec.and_append, BitVec.and_allOnes, BitVec.and_zero, packXYN]

/-- The bits of 0XE0 and 0XEE that are named: all but the field x (D6). -/
theorem packXNN_and_named (f : BitVec 4) (x : Reg) (nn : Byte) :
    packXNN f x nn &&& 0xF0FF#16 = packXNN f 0 nn := by
  change (f ++ (nibble x ++ nn) : BitVec (4 + (4 + 8))) &&&
    (BitVec.allOnes 4 ++ (0x0#4 ++ BitVec.allOnes 8)) = packXNN f 0 nn
  simp only [BitVec.and_append, BitVec.and_allOnes, BitVec.and_zero, packXNN]
  rfl

/-- The instruction is well formed, and the word is its encoding in every bit the instruction names. -/
def ReadsAs (w : Word) (i : Instr) : Prop := i.wellFormed = true ∧ w &&& i.namedBits = encode i

/-- A word that is the encoding of a well-formed instruction reads as it, where that names every bit. -/
theorem readsAs_of_encode {w : Word} {i : Instr} (hwf : i.wellFormed = true) (hbits : i.namedBits = 0xFFFF#16)
    (henc : encode i = w) : ReadsAs w i := by
  refine ⟨hwf, ?_⟩
  rw [hbits, henc]
  exact BitVec.and_allOnes

/-- Family 0 gives CLS and RET whatever bits 11..8 hold, and SYS for every other low byte (R85). -/
theorem decodeFamily0_readsAs {w : Word} (hf : fieldF w = 0x0#4) : ReadsAs w (decodeFamily0 w) := by
  have hnamed : w &&& 0xF0FF#16 = packXNN 0x0#4 0 (fieldNN w) := by
    rw [← packXNN_and_named _ (fieldX w), packXNN_of_fields hf rfl]
  unfold decodeFamily0
  split_ifs with hcls hret
  · exact ⟨rfl, hnamed.trans (by rw [hcls]; rfl)⟩
  · exact ⟨rfl, hnamed.trans (by rw [hret]; rfl)⟩
  · have hpack := packNNN_of_fields hf
    have hlow : Instr.lowByte (fieldNNN w) = fieldNN w := by rw [← fieldNN_packNNN 0x0#4, hpack]
    exact readsAs_of_encode (by simp [Instr.wellFormed, hlow, hcls, hret]) rfl hpack

/-- Each low nibble of the table of family 8 is the one its instruction is encoded with. -/
theorem decodeFamily8_readsAs {w : Word} {i : Instr} (hf : fieldF w = 0x8#4) (h : decodeFamily8 w = .ok i) :
    ReadsAs w i := by
  unfold decodeFamily8 at h
  split at h <;> cases h
  all_goals next hn => exact readsAs_of_encode rfl rfl (packXYN_of_fields hf hn)

/-- Each low byte of the table of family E is the one its instruction is encoded with. -/
theorem decodeFamilyE_readsAs {w : Word} {i : Instr} (hf : fieldF w = 0xE#4) (h : decodeFamilyE w = .ok i) :
    ReadsAs w i := by
  unfold decodeFamilyE at h
  split at h <;> cases h
  all_goals next hnn => exact readsAs_of_encode rfl rfl (packXNN_of_fields hf hnn)

/-- Each low byte of the table of family F is the one its instruction is encoded with. -/
theorem decodeFamilyF_readsAs {w : Word} {i : Instr} (hf : fieldF w = 0xF#4) (h : decodeFamilyF w = .ok i) :
    ReadsAs w i := by
  unfold decodeFamilyF at h
  split at h <;> cases h
  all_goals next hnn => exact readsAs_of_encode rfl rfl (packXNN_of_fields hf hnn)

/-- What decoding a word is (R85): the families 8, E and F select on lower bits, and each other family decodes every
word. -/
theorem decodeWord_cases (w : Word) :
    (fieldF w ∉ [0x8#4, 0xE#4, 0xF#4] ∧ ∃ i, decodeWord w = .ok i ∧ ReadsAs w i) ∨
    (fieldF w = 0x8#4 ∧ decodeWord w = decodeFamily8 w) ∨
    (fieldF w = 0xE#4 ∧ decodeWord w = decodeFamilyE w) ∨
    (fieldF w = 0xF#4 ∧ decodeWord w = decodeFamilyF w) := by
  generalize hd : decodeWord w = d
  unfold decodeWord at hd
  split at hd <;> subst hd
  -- SYS, CLS, RET
  case h_1 hf => exact .inl ⟨by simp [hf], _, rfl, decodeFamily0_readsAs hf⟩
  -- JP, CALL, LD I, JP V0
  case h_2 hf | h_3 hf | h_11 hf | h_12 hf =>
    exact .inl ⟨by simp [hf], _, rfl, readsAs_of_encode rfl rfl (packNNN_of_fields hf)⟩
  -- SE, SNE, LD and ADD with an immediate, RND
  case h_4 hf | h_5 hf | h_7 hf | h_8 hf | h_13 hf =>
    exact .inl ⟨by simp [hf], _, rfl, readsAs_of_encode rfl rfl (packXNN_of_fields hf rfl)⟩
  -- SE and SNE on two registers
  case h_6 hf | h_10 hf =>
    refine .inl ⟨by simp [hf], _, rfl, rfl, ?_⟩
    conv_lhs => rw [← packXYN_of_fields hf rfl]
    exact packXYN_and_named _ _ _ _
  -- DRW
  case h_14 hf => exact .inl ⟨by simp [hf], _, rfl, readsAs_of_encode rfl rfl (packXYN_of_fields hf rfl)⟩
  -- the families that select on lower bits; F is the one that the fifteen patterns leave
  case h_9 hf => exact .inr (.inl ⟨hf, rfl⟩)
  case h_15 hf => exact .inr (.inr (.inl ⟨hf, rfl⟩))
  case h_16 =>
    refine .inr (.inr (.inr ⟨?_, rfl⟩))
    generalize fieldF w = f at *
    revert f
    decide

/-- Decoding is sound: in every family the word reads as the instruction it decodes to. -/
theorem decodeWord_readsAs {w : Word} {i : Instr} (h : decodeWord w = .ok i) : ReadsAs w i := by
  obtain ⟨-, j, hj, hreads⟩ | ⟨hf, hd⟩ | ⟨hf, hd⟩ | ⟨hf, hd⟩ := decodeWord_cases w
  · obtain rfl : j = i := Except.ok.inj (hj.symm.trans h)
    exact hreads
  · exact decodeFamily8_readsAs hf (hd.symm.trans h)
  · exact decodeFamilyE_readsAs hf (hd.symm.trans h)
  · exact decodeFamilyF_readsAs hf (hd.symm.trans h)

/-- Settles O44: what each family decodes reads as the instruction it gives. -/
theorem encodeDecode : Obligations.EncodeDecode := fun _ _ h => decodeWord_readsAs h

/-! ### The words that do not decode (R86) -/

/-- Family 8 decodes the low nibbles of its table and no other. -/
theorem decodeFamily8_error_iff (w : Word) : (∃ e, decodeFamily8 w = .error e) ↔
    fieldN w ∉ [0x0#4, 0x1#4, 0x2#4, 0x3#4, 0x4#4, 0x5#4, 0x6#4, 0x7#4, 0xE#4] := by
  unfold decodeFamily8
  split <;> simp_all

/-- Family E decodes the low bytes of its table and no other. -/
theorem decodeFamilyE_error_iff (w : Word) : (∃ e, decodeFamilyE w = .error e) ↔
    fieldNN w ∉ [0x9E#8, 0xA1#8] := by
  unfold decodeFamilyE
  split <;> simp_all

/-- Family F decodes the low bytes of its table and no other. -/
theorem decodeFamilyF_error_iff (w : Word) : (∃ e, decodeFamilyF w = .error e) ↔
    fieldNN w ∉ [0x07#8, 0x0A#8, 0x15#8, 0x18#8, 0x1E#8, 0x29#8, 0x33#8, 0x55#8, 0x65#8] := by
  unfold decodeFamilyF
  split <;> simp_all

/-- A word that does not decode is of family 8, E or F, and its family does not decode it. -/
theorem decodeWord_error_iff (w : Word) : (∃ e, decodeWord w = .error e) ↔
    (fieldF w = 0x8#4 ∧ ∃ e, decodeFamily8 w = .error e) ∨
    (fieldF w = 0xE#4 ∧ ∃ e, decodeFamilyE w = .error e) ∨
    (fieldF w = 0xF#4 ∧ ∃ e, decodeFamilyF w = .error e) := by
  obtain ⟨hf, i, hi, -⟩ | ⟨hf, hd⟩ | ⟨hf, hd⟩ | ⟨hf, hd⟩ := decodeWord_cases w
  · simp_all
  · simp [hf, hd]
  · simp [hf, hd]
  · simp [hf, hd]

/-- The family as the leading digit of the word. -/
theorem fieldF_eq_iff (w : Word) (f : BitVec 4) : fieldF w = f ↔ w.toNat / 4096 = f.toNat := by
  rw [← BitVec.toNat_inj, fieldF_toNat]

/-- The low byte as a remainder of the word. -/
theorem fieldNN_eq_iff (w : Word) (nn : Byte) : fieldNN w = nn ↔ w.toNat % 256 = nn.toNat := by
  rw [← BitVec.toNat_inj, fieldNN_toNat]

/-- The low nibbles outside the table of family 8, written out. -/
theorem not_mem_aluOps_iff (n : BitVec 4) :
    n ∉ [0x0#4, 0x1#4, 0x2#4, 0x3#4, 0x4#4, 0x5#4, 0x6#4, 0x7#4, 0xE#4] ↔
      n.toNat ∈ [0x8, 0x9, 0xA, 0xB, 0xC, 0xD, 0xF] := by
  revert n
  decide

/-- Settles O45: the three families that select on lower bits, each with the values its table leaves out. -/
theorem unknownWords : Obligations.UnknownWords := by
  intro w
  rw [decodeWord_error_iff, decodeFamily8_error_iff, decodeFamilyE_error_iff, decodeFamilyF_error_iff,
    not_mem_aluOps_iff, fieldN_toNat]
  simp [fieldF_eq_iff, fieldNN_eq_iff]

/-- Settles O46: each word is written out, and decoding computes. -/
theorem wordsDecode : Obligations.WordsDecode := by
  unfold Obligations.WordsDecode
  decide

end Sys2Proof
end

section
/-! The step of a running session whose next operation is a call (30_encoding.md R80), and the placing of one word. -/
namespace Sys2Proof.Machine

/-- Where nothing is listed, a driver that only calls gives a call. -/
theorem State.nextOp_calls {s : State} (hp : s.pending = []) (hd : s.driver = .calls) : s.nextOp = .executeOne := by
  rw [State.nextOp, hp, hd]
  rfl

/-- Where nothing is listed, taking the call of a driver that only calls changes nothing. -/
theorem State.takeOp_calls {s : State} (hp : s.pending = []) (hd : s.driver = .calls) : s.takeOp = s := by
  cases s
  subst hp hd
  rfl

/-- Settles O40: the step of a decoded word, and what taking an operation from the schedule is. -/
theorem stepRunsDecoded : Obligations.StepRunsDecoded :=
  ⟨fun _ _ _ hn hc hf hi => step_decoded hn hc hf hi,
    fun _ _ _ hp => ⟨State.nextOp_pending hp, State.takeOp_pending hp⟩,
    fun _ hp hd => ⟨State.nextOp_calls hp hd, State.takeOp_calls hp hd⟩⟩

/-- The word whose bytes `tableBytes` gives. -/
def tableWord (nbits w : Nat) : Word := BitVec.ofNat 16 (w % 2 ^ nbits)

theorem tableBytes_eq (nbits w : Nat) :
    tableBytes nbits w = [firstByte (tableWord nbits w), secondByte (tableWord nbits w)] := rfl

/-- What a table row decodes to is what its word decodes to. -/
theorem decodeWord_tableWord {nbits w : Nat} {i : Instr} (h : decodeTableWord nbits w = some i) :
    decodeWord (tableWord nbits w) = .ok i := by
  rw [decodeTableWord, tableBytes_eq, decodeBytes, wordOfBytes_bytes] at h
  cases hd : decodeWord (tableWord nbits w) with
  | ok j => simpa [hd] using h
  | error e => simp [hd] at h

section
variable (s : State) (nbits w : Nat)

/-- The word is placed at PC, or at 0x200 where no fetch may start at PC. -/
theorem State.withFetchWord_pc :
    (s.withFetchWord nbits w).pc = if lastAddress < s.pc.toNat + 1 then 0x200#16 else s.pc := rfl

/-- A fetch may start where the word is placed. -/
theorem State.withFetchWord_pc_inside : (s.withFetchWord nbits w).pc.toNat + 1 ≤ lastAddress := by
  rw [State.withFetchWord_pc]
  split
  · decide
  · omega

/-- The memory differs in the two bytes placed. -/
theorem State.withFetchWord_mem : (s.withFetchWord nbits w).mem =
    s.mem.writeBytes (s.withFetchWord nbits w).pc.toNat (tableBytes nbits w) := rfl

/-- The word that is placed is the one fetched. -/
theorem State.fetch_withFetchWord : (s.withFetchWord nbits w).fetch = some (tableWord nbits w) := by
  rw [State.fetch_inside _ (s.withFetchWord_pc_inside nbits w), State.withFetchWord_mem, tableBytes_eq]
  simp [Memory.read_write]

/-- Placing a word keeps all but memory, PC, `halted` and the list of operations. -/
theorem State.withFetchWord_othersKept :
    OthersKept [.mem, .pc, .halted, .pending] s (s.withFetchWord nbits w) := by
  intro p hp
  cases p with
  | mem | pc | halted | pending => simp at hp
  | v | stack | key => exact fun _ => rfl
  | disp => exact fun _ _ => rfl
  | _ => rfl

/-- Placing a word keeps every byte but the two at the place. -/
theorem State.read_withFetchWord {a : Nat} (hfirst : a ≠ (s.withFetchWord nbits w).pc.toNat)
    (hsecond : a ≠ (s.withFetchWord nbits w).pc.toNat + 1) :
    (s.withFetchWord nbits w).mem.read a = s.mem.read a := by
  rw [State.withFetchWord_mem]
  refine Memory.read_writeBytes_outside _ _ _ _ ?_
  rw [tableBytes_eq, List.length_cons, List.length_cons, List.length_nil]
  omega

end

/-- Settles O41: the placed word is the one fetched, a call comes next and the session is not halted, so the step is the
one of a decoded word. -/
theorem placedWordRuns : Obligations.PlacedWordRuns :=
  fun s nbits w _ hi =>
    ⟨step_decoded rfl rfl (s.fetch_withFetchWord nbits w) (decodeWord_tableWord hi),
      s.withFetchWord_othersKept nbits w,
      fun hin => (s.withFetchWord_pc nbits w).trans (if_neg (Nat.not_lt.mpr hin)),
      fun _ hfirst hsecond => s.read_withFetchWord nbits w hfirst hsecond⟩

end Sys2Proof.Machine
end

section
/-! Control flow (40_control_flow.md): jumps, the four skips, CALL and RET, and a CALL that is at once returned from. -/
namespace Sys2Proof.Machine

/-! ### Jump targets (R83, R108) -/

/-- The zero extension keeps the value (30_encoding.md R83). -/
theorem zextAddr_toNat (nnn : Addr12) : (zextAddr nnn).toNat = nnn.toNat :=
  BitVec.toNat_setWidth_of_le (by decide)

theorem zextByte_toNat (b : Byte) : (zextByte b).toNat = b.toNat :=
  BitVec.toNat_setWidth_of_le (by decide)

/-- The sum of JP V0 is at most 0xFFF + 0xFF, so it does not wrap. -/
theorem zextAddr_add_zextByte_toNat (nnn : Addr12) (b : Byte) :
    (zextAddr nnn + zextByte b).toNat = nnn.toNat + b.toNat := by
  rw [BitVec.toNat_add, zextAddr_toNat, zextByte_toNat]
  omega

/-! ### What writing PC and the stack keeps -/

/-- Writing PC keeps every other part. -/
theorem OthersKept.setPc (s : State) (w : Word) (o : Output) : OthersKept [.pc] s ((s.setPc w).setOut o) := by
  intro p hp
  cases p <;> simp_all [Part.same, State.keyDown]

/-- A skip keeps all but PC, whether it is taken or not. -/
theorem OthersKept.skipIf (s : State) (c : Bool) (o : Output) : OthersKept [.pc] s ((s.skipIf c).setOut o) := by
  cases c with
  | true => exact OthersKept.setPc s _ o
  | false => exact fun p _ => OthersKept.setOut s o p List.not_mem_nil

/-- A push and a jump keep all but the stack, SP and PC. -/
theorem OthersKept.pushPc_setPc (s : State) (k : Fin 16) (w : Word) (o : Output) :
    OthersKept [.stack, .sp, .pc] s (((s.pushPc k).setPc w).setOut o) := by
  intro p hp
  cases p <;> simp_all [Part.same, State.keyDown]

/-- A pop keeps all but SP and PC: the slot it reads is not cleared. -/
theorem OthersKept.popPc (s : State) (k : Fin 16) (o : Output) :
    OthersKept [.sp, .pc] s ((s.popPc k).setOut o) := by
  intro p hp
  cases p <;> simp_all [Part.same, State.keyDown]

/-! ### SYS and the jumps (R100, R102, R108) -/

/-- Settles O9: SYS only raises UnknownOpcode, for its own encoding and P. -/
theorem sysReportsUnknown : Obligations.SysReportsUnknown :=
  fun _ s => ⟨_, rfl, OthersKept.setOut s _, rfl⟩

/-- Settles O10: both jumps write PC alone, and neither target wraps. -/
theorem jumpTargets : Obligations.JumpTargets :=
  fun nnn s =>
    ⟨⟨_, rfl, rfl, OthersKept.setPc s _ _, zextAddr_toNat nnn⟩,
      ⟨_, rfl, rfl, OthersKept.setPc s _ _, zextAddr_add_zextByte_toNat nnn (s.reg 0)⟩⟩

/-! ### The skips (R104 to R107) -/

/-- A skip completes and adds to PC, modulo 2^16, the 2 of an instruction exactly where its condition holds. -/
theorem State.skipIf_completes (s : State) (c : Bool) {d : Nat} (hd : (if c then 2 else 0) = d) :
    ∃ t, (s.skipIf c).complete = .next t ∧ t.out = Output.ok ∧ OthersKept [.pc] s t ∧
      t.pc.toNat = (s.pc.toNat + d) % 65536 := by
  refine ⟨_, rfl, rfl, OthersKept.skipIf s c _, ?_⟩
  subst hd
  cases c with
  | true => exact BitVec.toNat_add s.pc instrSize
  | false => exact (Nat.mod_eq_of_lt s.pc.isLt).symm

/-- Settles O14: each skip is `skipIf` at its own condition. -/
theorem skipsOnRegisters : Obligations.SkipsOnRegisters :=
  fun x y nn s =>
    ⟨s.skipIf_completes (s.reg x == nn) (by simp), s.skipIf_completes (s.reg x != nn) (by simp),
      s.skipIf_completes (s.reg x == s.reg y) (by simp), s.skipIf_completes (s.reg x != s.reg y) (by simp)⟩

/-! ### CALL and RET (R101, R103, R242, R243) -/

/-- A CALL with SP at a slot pushes there and jumps. -/
theorem execCall_slot (nnn : Addr12) {s : State} {k : Fin 16} (hk : s.sp.toNat = k.val) :
    exec (.call nnn) s = ((s.pushPc k).setPc (zextAddr nnn)).complete := by
  have hroom : s.sp ≠ 16#8 := by bv_omega
  have hslot : s.sp.toNat < 16 := by omega
  obtain rfl : ⟨s.sp.toNat, hslot⟩ = k := Fin.ext hk
  exact (if_neg hroom).trans (dif_pos hslot)

/-- A RET with SP just above a slot pops that slot. -/
theorem execRet_slot {s : State} {k : Fin 16} (hk : s.sp.toNat = k.val + 1) :
    exec .ret s = (s.popPc k).complete := by
  have hused : s.sp ≠ 0#8 := by bv_omega
  have hslot : s.sp.toNat - 1 < 16 := by omega
  obtain rfl : ⟨s.sp.toNat - 1, hslot⟩ = k := Fin.ext (Nat.sub_eq_of_eq_add hk)
  exact (if_neg hused).trans (dif_pos hslot)

/-- A push increments SP, which is at most 15 before it and so does not wrap. -/
theorem State.pushPc_sp_toNat {s : State} {k : Fin 16} (hk : s.sp.toNat = k.val) :
    (s.pushPc k).sp.toNat = k.val + 1 := by
  rw [State.pushPc_sp]
  bv_omega

/-- A pop leaves SP at the slot it reads. -/
theorem State.popPc_sp_toNat (s : State) (k : Fin 16) : (s.popPc k).sp.toNat = k.val := by
  rw [State.popPc_sp, BitVec.toNat_ofNat]
  omega

/-- Settles O11: CALL at a slot pushes there, and at SP = 16 raises StackOverflow before any write. -/
theorem callPushesOrOverflows : Obligations.CallPushesOrOverflows := by
  refine fun nnn s => ⟨fun hroom => ?_, fun hfull => ?_⟩
  · exact ⟨_, execCall_slot nnn (k := ⟨_, hroom⟩) rfl, rfl, OthersKept.pushPc_setPc s _ _ _, zextAddr_toNat nnn,
      State.pushPc_sp_toNat (s := s) (k := ⟨_, hroom⟩) rfl, s.stack_pushPc _⟩
  · rw [execCall_full nnn (BitVec.eq_of_toNat_eq hfull)]
    exact s.raiseFatal_spec _

/-- Settles O12: RET above a slot pops it, and at SP = 0 raises StackUnderflow before any write. -/
theorem retPopsOrUnderflows : Obligations.RetPopsOrUnderflows := by
  refine fun s => ⟨fun k hk => ?_, fun hempty => ?_⟩
  · exact ⟨_, execRet_slot hk, rfl, OthersKept.popPc s k _, s.popPc_sp_toNat k, rfl⟩
  · rw [execRet_empty (BitVec.eq_of_toNat_eq hempty)]
    exact s.raiseFatal_spec _

/-! ### A CALL and at once a RET (R109) -/

/-- The session after a step that ran CALL nnn with SP at slot `k`. -/
def State.afterCall (s : State) (nnn : Addr12) (k : Fin 16) : State :=
  ((s.takeOp.advance.pushPc k).setPc (zextAddr nnn)).setOut Output.ok

/-- The session after a step that ran RET with SP just above slot `k`. -/
def State.afterRet (s : State) (k : Fin 16) : State := (s.takeOp.advance.popPc k).setOut Output.ok

section
variable {s : State} {w : Word} {k : Fin 16}

/-- A running session steps to `afterCall` where the fetched word is a CALL and a slot is free (R103). -/
theorem step_call {nnn : Addr12} (hn : s.nextOp = .executeOne) (hc : s.halted = none) (hf : s.fetch = some w)
    (hi : decodeWord w = .ok (.call nnn)) (hk : s.sp.toNat = k.val) : step s = .next (s.afterCall nnn k) :=
  (step_decoded hn hc hf hi).trans (execCall_slot nnn (s := s.takeOp.advance) hk)

/-- A running session steps to `afterRet` where the fetched word is RET and a slot is in use (R101). -/
theorem step_ret (hn : s.nextOp = .executeOne) (hc : s.halted = none) (hf : s.fetch = some w)
    (hi : decodeWord w = .ok .ret) (hk : s.sp.toNat = k.val + 1) : step s = .next (s.afterRet k) :=
  (step_decoded hn hc hf hi).trans (execRet_slot (s := s.takeOp.advance) hk)

/-- The operation after the CALL is the one that the schedule lists next. -/
theorem State.afterCall_nextOp (s : State) (nnn : Addr12) (k : Fin 16) :
    (s.afterCall nnn k).nextOp = s.takeOp.nextOp := by
  simp [State.nextOp, State.afterCall]

/-- A CALL with a free slot does not halt the session. -/
theorem State.afterCall_halted (s : State) (nnn : Addr12) (k : Fin 16) : (s.afterCall nnn k).halted = s.halted := by
  simp [State.afterCall]

/-- The word fetched after the CALL is the one at its target. -/
theorem State.afterCall_fetch (s : State) (nnn : Addr12) (k : Fin 16) :
    (s.afterCall nnn k).fetch = State.fetch { s with pc := zextAddr nnn } := by
  simp [State.fetch, State.afterCall]

/-- SP after the CALL is just above the slot pushed to. -/
theorem State.afterCall_sp_toNat (nnn : Addr12) (hk : s.sp.toNat = k.val) :
    (s.afterCall nnn k).sp.toNat = k.val + 1 :=
  State.pushPc_sp_toNat (s := s.takeOp.advance) hk

/-- The return address is the one that the CALL pushed, P + 2. -/
theorem State.afterCall_afterRet_pc (s : State) (nnn : Addr12) (k : Fin 16) :
    ((s.afterCall nnn k).afterRet k).pc = s.pc + 2#16 :=
  (s.takeOp.advance.stack_pushPc k k).trans (if_pos rfl)

/-- The RET takes back the increment of the CALL. -/
theorem State.afterCall_afterRet_sp (nnn : Addr12) (hk : s.sp.toNat = k.val) :
    ((s.afterCall nnn k).afterRet k).sp = s.sp := by
  show BitVec.ofNat 8 k.val = s.sp
  rw [← hk, BitVec.ofNat_toNat, BitVec.setWidth_eq]

/-- The pair keeps all but PC and the stack slots, its two calls taken from the schedule. -/
theorem State.afterCall_afterRet_othersKept (nnn : Addr12) (hk : s.sp.toNat = k.val) :
    OthersKept [.pc, .stack] s.takeOp.takeOp ((s.afterCall nnn k).afterRet k) := by
  intro p hp
  cases p with
  | pc | stack => simp at hp
  | sp => exact State.afterCall_afterRet_sp nnn hk
  | pending | driver => rfl
  | _ => simp [Part.same, State.afterRet, State.afterCall, State.keyDown]

end

/-- Settles O15: the CALL pushes P + 2 at the slot of SP, and the RET at its target pops that slot. -/
theorem callThenReturn : Obligations.CallThenReturn := by
  intro nnn w w' s hn hn' hc hroom hf hi hf' hi'
  obtain ⟨k, hk⟩ : ∃ k : Fin 16, s.sp.toNat = k.val := ⟨⟨_, hroom⟩, rfl⟩
  have hcall : step s = .next (s.afterCall nnn k) := step_call hn hc hf hi hk
  have hret : step (s.afterCall nnn k) = .next ((s.afterCall nnn k).afterRet k) :=
    step_ret ((s.afterCall_nextOp nnn k).trans hn') ((s.afterCall_halted nnn k).trans hc)
      ((s.afterCall_fetch nnn k).trans hf') hi' (State.afterCall_sp_toNat nnn hk)
  exact ⟨_, _, hcall, zextAddr_toNat nnn, hret, s.afterCall_afterRet_pc nnn k, State.afterCall_afterRet_sp nnn hk,
    State.afterCall_afterRet_othersKept nnn hk⟩

end Sys2Proof.Machine
end

section
/-! Registers and ALU (41_alu.md). The machine side is what a completing write of a register does; the byte side is what
each result and each flag is as a number. -/
namespace Sys2Proof.Machine

/-! ### What writing registers keeps -/

/-- Writing registers keeps every other part. -/
theorem OthersKept.setV (s : State) (v : Vector Byte 16) (o : Output) : OthersKept [.v] s ((s.setV v).setOut o) := by
  intro p hp
  cases p <;> simp_all [Part.same, State.keyDown]

/-- A logic operation writes registers alone, under either value of LOGIC_VF_QUIRK. -/
theorem OthersKept.writeLogic (s : State) (x : Reg) (b : Byte) (o : Output) :
    OthersKept [.v] s ((s.writeLogic x b).setOut o) := by
  unfold State.writeLogic
  split <;> exact OthersKept.setV s _ o

/-- A draw and a register write keep all but the registers and the count of draws. -/
theorem OthersKept.countDraw_setReg (s : State) (x : Reg) (b : Byte) (o : Output) :
    OthersKept [.v, .draws] s ((s.countDraw.setReg x b).setOut o) := by
  intro p hp
  cases p <;> simp_all [Part.same, State.keyDown]

/-! ### What a completing register write answers -/

section
variable (s : State) (x : Reg) (b : Byte)

/-- An instruction that writes V[x] alone: V[x] is the byte, the other registers are as they were (R130, R133). -/
theorem State.setReg_completes :
    ∃ t, (s.setReg x b).complete = .next t ∧ t.out = Output.ok ∧ OthersKept [.v] s t ∧
      ∀ r : Reg, t.reg r = if r = x then b else s.reg r :=
  ⟨_, rfl, rfl, OthersKept.setV s _ _, fun r => s.reg_setReg x r b⟩

/-- A logic operation: the result in V[x], and 0 in VF under RESET (R134 to R136). -/
theorem State.writeLogic_completes :
    ∃ t, (s.writeLogic x b).complete = .next t ∧ t.out = Output.ok ∧ OthersKept [.v] s t ∧
      ∀ r : Reg, t.reg r =
        if r = regF ∧ s.params.logicVfQuirk = .reset then 0#8 else if r = x then b else s.reg r :=
  ⟨_, rfl, rfl, OthersKept.writeLogic s x b _, s.reg_writeLogic x b⟩

/-- A result and its flag (R132): VF is the flag, V[x] the result where x is not F, the other registers are as they
were. The flag is given as the number `n`, the result as its reading `z` by `val`. -/
theorem State.writeResultFlag_completes {f : Bool} {n : Nat} (hf : f.toNat = n) {α : Type} (val : Byte → α) {z : α}
    (hb : val b = z) :
    ∃ t, (s.writeResultFlag x b f).complete = .next t ∧ t.out = Output.ok ∧ OthersKept [.v] s t ∧
      (t.reg regF).toNat = n ∧ (x ≠ regF → val (t.reg x) = z) ∧
      ∀ r : Reg, r ≠ x → r ≠ regF → t.reg r = s.reg r := by
  have hreg := s.reg_writeResultFlag x b f
  refine ⟨_, rfl, rfl, OthersKept.setV s _ _, ?_, fun hx => ?_, fun r hrx hrF => ?_⟩
  · rw [State.reg_setOut, hreg, if_pos rfl, ← hf]
    cases f <;> rfl
  · rw [State.reg_setOut, hreg, if_neg hx, if_pos rfl, hb]
  · rw [State.reg_setOut, hreg, if_neg hrF, if_neg hrx]

end

/-! ### Results and flags as numbers -/

section
variable (a b : Byte)

theorem carryOut_toNat : (carryOut a b).toNat = if 255 < a.toNat + b.toNat then 1 else 0 := Bool.cond_decide _ 1 0

theorem noBorrow_toNat : (noBorrow a b).toNat = if b.toNat ≤ a.toNat then 1 else 0 := Bool.cond_decide _ 1 0

/-- The difference of two bytes is the difference of their values modulo 256. -/
theorem sub_toNat_int : ((a - b).toNat : Int) = (a.toNat - b.toNat : Int) % 256 := by
  have hb : b.toNat < 256 := b.isLt
  rw [BitVec.toNat_sub]
  omega

/-- Bit 0 is the remainder of halving. -/
theorem lowBit_toNat : (lowBit b).toNat = b.toNat % 2 := by
  rw [lowBit, BitVec.getLsbD, Nat.toNat_testBit, Nat.pow_zero, Nat.div_one]

/-- Bit 7 is what is left above the seven low bits. -/
theorem highBit_toNat : (highBit b).toNat = b.toNat / 128 := by
  have hb : b.toNat < 256 := b.isLt
  rw [highBit, BitVec.getLsbD, Nat.toNat_testBit]
  omega

theorem shiftRight_one_toNat : (b >>> 1).toNat = b.toNat / 2 := by
  rw [BitVec.toNat_ushiftRight, Nat.shiftRight_one]

theorem shiftLeft_one_toNat : (b <<< 1).toNat = b.toNat * 2 % 256 := by
  rw [BitVec.toNat_shiftLeft, Nat.shiftLeft_eq]

theorem shiftSource_eq (q : ShiftQuirk) : shiftSource q a b = if q = .vx then a else b := by
  cases q <;> rfl

/-- A masked byte has no bit outside its mask. -/
theorem masked_and_not (nn : Byte) : (b &&& nn) &&& ~~~nn = 0#8 := by
  rw [BitVec.and_assoc, BitVec.and_not_self]
  exact BitVec.and_zero

end

/-! ### The obligations -/

/-- Settles O1: LD Vx, nn is one register write. -/
theorem loadImmediate : Obligations.LoadImmediate :=
  fun x nn s => s.setReg_completes x nn

/-- Settles O2: ADD Vx, nn is one register write, of a sum of bytes. -/
theorem addImmediateWraps : Obligations.AddImmediateWraps := by
  intro x nn s
  obtain ⟨t, hexec, hout, hkept, hreg⟩ := s.setReg_completes x (s.reg x + nn)
  refine ⟨t, hexec, hout, hkept, ?_, fun r hr => (hreg r).trans (if_neg hr)⟩
  rw [hreg, if_pos rfl, BitVec.toNat_add]

/-- Settles O3: LD Vx, Vy is one register write, whatever the quirk. -/
theorem copyRegister : Obligations.CopyRegister :=
  fun x y s => s.setReg_completes x (s.reg y)

/-- Settles O4: OR, AND and XOR are one operation at three results. -/
theorem logicOperations : Obligations.LogicOperations :=
  fun x y s =>
    ⟨s.writeLogic_completes x (s.reg x ||| s.reg y), s.writeLogic_completes x (s.reg x &&& s.reg y),
      s.writeLogic_completes x (s.reg x ^^^ s.reg y)⟩

/-- Settles O5: the sum is written first and its carry last. -/
theorem addWithCarry : Obligations.AddWithCarry :=
  fun x y s =>
    s.writeResultFlag_completes x _ (carryOut_toNat (s.reg x) (s.reg y)) BitVec.toNat
      (BitVec.toNat_add (s.reg x) (s.reg y))

/-- Settles O6: SUBN is SUB with the operands exchanged, in the difference and in the flag. -/
theorem subtractBothWays : Obligations.SubtractBothWays :=
  fun x y s =>
    ⟨s.writeResultFlag_completes x _ (noBorrow_toNat (s.reg x) (s.reg y)) (fun b => (b.toNat : Int))
        (sub_toNat_int (s.reg x) (s.reg y)),
      s.writeResultFlag_completes x _ (noBorrow_toNat (s.reg y) (s.reg x)) (fun b => (b.toNat : Int))
        (sub_toNat_int (s.reg y) (s.reg x))⟩

/-- Settles O7: both shifts take the source that SHIFT_QUIRK names, and each flag is the bit the result loses. -/
theorem shiftsByOne : Obligations.ShiftsByOne := by
  intro x y s src hsrc
  rw [← shiftSource_eq] at hsrc
  subst hsrc
  exact ⟨s.writeResultFlag_completes x _ (lowBit_toNat _) BitVec.toNat (shiftRight_one_toNat _),
    s.writeResultFlag_completes x _ (highBit_toNat _) BitVec.toNat (shiftLeft_one_toNat _)⟩

/-- Settles O8: RND counts a draw and writes the masked byte, whatever byte the source gives. -/
theorem randomUnderMask : Obligations.RandomUnderMask := by
  intro x nn s
  have hx : (s.countDraw.setReg x (Config.randomByte s.draws &&& nn)).reg x = Config.randomByte s.draws &&& nn :=
    State.reg_setReg_same _ x _
  refine ⟨_, rfl, rfl, OthersKept.countDraw_setReg s x _ _, rfl, hx, ?_, fun r hr => ?_⟩
  · exact (congrArg (· &&& ~~~nn) hx).trans (masked_and_not _ nn)
  · exact (State.reg_setReg s.countDraw x r _).trans (if_neg hr)

end Sys2Proof.Machine
end

section
/-! The index register and memory transfers (42_index_memory.md): what writing I and writing bytes keep, what an access
past 0xFFF raises, and the values FX29 and FX33 compute. -/
namespace Sys2Proof.Machine

/-! ### What writing I and memory keeps -/

/-- Writing I keeps every other part. -/
theorem OthersKept.setI (s : State) (w : Word) (o : Output) : OthersKept [.i] s ((s.setI w).setOut o) := by
  intro p hp
  cases p <;> simp_all [Part.same, State.keyDown]

/-- Writing memory keeps every other part. -/
theorem OthersKept.setMem (s : State) (m : Memory) (o : Output) : OthersKept [.mem] s ((s.setMem m).setOut o) := by
  intro p hp
  cases p <;> simp_all [Part.same, State.keyDown]

/-! ### The index register (R170 to R172) -/

/-- The sum of ADD I, Vx wraps modulo 2^16 (D14). -/
theorem add_zextByte_toNat (w : Word) (b : Byte) : (w + zextByte b).toNat = (w.toNat + b.toNat) % 65536 := by
  rw [BitVec.toNat_add, zextByte_toNat]

/-- A glyph address is at most 5 * 255, so the product does not wrap. -/
theorem glyphAddress_toNat (b : Byte) : (glyphAddress b).toNat = b.toNat * 5 := by
  have hb : b.toNat < 256 := b.isLt
  rw [glyphAddress, BitVec.toNat_mul, zextByte_toNat]
  exact Nat.mod_eq_of_lt (show b.toNat * 5 < 65536 by omega)

/-- An instruction that writes I alone; the word is given as its number `n`. -/
theorem State.setI_completes (s : State) {w : Word} {n : Nat} (hw : w.toNat = n) :
    ∃ t, (s.setI w).complete = .next t ∧ t.out = Output.ok ∧ OthersKept [.i] s t ∧ t.i.toNat = n :=
  ⟨_, rfl, rfl, OthersKept.setI s w _, hw⟩

/-- Settles O16: the three instructions are one write of I, at three words. -/
theorem indexRegisterWrites : Obligations.IndexRegisterWrites :=
  fun nnn x s =>
    ⟨s.setI_completes (zextAddr_toNat nnn), s.setI_completes (add_zextByte_toNat s.i (s.reg x)),
      s.setI_completes (glyphAddress_toNat (s.reg x))⟩

/-! ### The checked range of a transfer (R173 to R175) -/

section
variable (s : State)

/-- FX33 is a checked write of three bytes. -/
theorem exec_ldB (x : Reg) : exec (.ldB x) s = s.withRange .write s.i.toNat (2 + 1) fun s =>
    (s.setMem (s.mem.writeBytes s.i.toNat (bcdDigits (s.reg x)))).complete := rfl

/-- FX55 is a checked write of the registers V0 to Vx. -/
theorem exec_ldStore (x : Reg) : exec (.ldStore x) s = s.withRange .write s.i.toNat (x.val + 1) fun s =>
    (s.setMem (s.storedMem x)).complete := rfl

/-- FX65 is a checked read of the registers V0 to Vx. -/
theorem exec_ldLoad (x : Reg) : exec (.ldLoad x) s = s.withRange .read s.i.toNat (x.val + 1) fun s =>
    (s.setV (s.loadedRegs x)).complete := rfl

variable (kind : AccessKind) {base last : Nat}

/-- A transfer to `base` .. `base + last` goes on where its last address is in bounds. -/
theorem State.withRange_of_le (h : base + last ≤ lastAddress) (k : State → StepResult) :
    s.withRange kind base (last + 1) k = k s :=
  s.withRange_inside kind base (last + 1) k (.inr h)

/-- Where the last address passes 0xFFF the transfer raises OutOfBoundsAccess at P, and does nothing else. -/
theorem State.withRange_raises (h : lastAddress < base + last) (k : State → StepResult) :
    RaisesFatal (s.withRange kind base (last + 1) k) s (.outOfBounds kind (max base 0x1000) (s.pc - 2#16)) := by
  rw [s.withRange_outside kind base (last + 1) k last.succ_ne_zero h]
  exact s.raiseFatal_spec _

end

/-! ### BCD (R173) -/

/-- Each digit fits its byte: the digits' values are those of the decimal notation. -/
theorem bcdDigits_toNat (b : Byte) :
    (bcdDigits b).map BitVec.toNat = [b.toNat / 100, b.toNat / 10 % 10, b.toNat % 10] := by
  have hb : b.toNat < 256 := b.isLt
  have hfits : ∀ n < 256, n % 2 ^ 8 = n := fun n hn => Nat.mod_eq_of_lt hn
  simp only [bcdDigits, List.map_cons, List.map_nil, BitVec.toNat_ofNat]
  rw [hfits _ (by omega), hfits _ (by omega), hfits _ (by omega)]

/-- The byte at `a + j` after the digits of a byte are written at `a` is, as a number, the `j`-th digit. -/
theorem Memory.read_writeBytes_bcdDigits (m : Memory) (a : Nat) (b : Byte) {j : Nat} (hj : j < 3) :
    ((m.writeBytes a (bcdDigits b)).read (a + j)).toNat =
      [b.toNat / 100, b.toNat / 10 % 10, b.toNat % 10][j] := by
  rw [m.read_writeBytes_at a (bcdDigits b) j hj]
  exact (List.getElem_map BitVec.toNat).symm.trans (List.getElem_of_eq (bcdDigits_toNat b) hj)

/-- Settles O17: in bounds the digits are the three bytes written, else the check raises before the write. -/
theorem bcdStore : Obligations.BcdStore := by
  intro x s
  have hdigit {j : Nat} (hj : j < 3) := s.mem.read_writeBytes_bcdDigits s.i.toNat (s.reg x) hj
  rw [exec_ldB]
  exact ⟨fun hin => ⟨_, s.withRange_of_le .write hin _, rfl, OthersKept.setMem s _ _,
      hdigit (j := 0) (by decide), hdigit (j := 1) (by decide), hdigit (j := 2) (by decide),
      fun a => s.mem.read_writeBytes_outside s.i.toNat (bcdDigits (s.reg x)) a⟩,
    fun hout => s.withRange_raises .write hout _⟩

/-! ### Store and load of registers (R174, R175) -/

/-- A byte outside I .. I + x is after FX55 as before. -/
theorem State.read_storedMem_outside (s : State) {x : Reg} {a : Nat} (ha : a < s.i.toNat ∨ s.i.toNat + x.val < a) :
    (s.storedMem x).read a = s.mem.read a := by
  refine s.mem.read_writeBytes_outside s.i.toNat (s.regRun x) a ?_
  rw [State.regRun_length]
  exact ha

/-- Settles O18: in bounds the registers are the bytes written, else the check raises before the write. -/
theorem storeRegisters : Obligations.StoreRegisters := by
  intro x s
  refine ⟨fun hin => ⟨_, exec_ldStore_inside hin, rfl, OthersKept.setMem s _ _, fun _ => s.read_storedMem,
    fun _ => s.read_storedMem_outside⟩, fun hout => ?_⟩
  rw [exec_ldStore]
  exact s.withRange_raises .write hout _

/-- Settles O19: in bounds the registers are replaced by the loaded ones, else the check raises before the write. -/
theorem loadRegisters : Obligations.LoadRegisters := by
  intro x s
  rw [exec_ldLoad]
  exact ⟨fun hin => ⟨_, s.withRange_of_le .read hin _, rfl, OthersKept.setV s _ _,
      fun r => (State.reg_setOut _ _ r).trans (s.reg_loadedRegs x r)⟩,
    fun hout => s.withRange_raises .read hout _⟩

end Sys2Proof.Machine
end

section
/-! The display (43_display.md): CLS, and what one DRW does to each cell and to VF. A draw is read off `SpriteCovers`:
it toggles exactly the covered cells, and collides exactly where a covered cell is set. -/
namespace Sys2Proof.Machine

/-! ### CLS (R200, R204) -/

/-- Writing the display keeps every other part. -/
theorem OthersKept.setDisp (s : State) (d : Display) (o : Output) : OthersKept [.disp] s ((s.setDisp d).setOut o) := by
  intro p hp
  cases p <;> simp_all [Part.same, State.keyDown]

/-- Settles O21: CLS writes the display alone, and every cell of the cleared display is 0. -/
theorem clearDisplay : Obligations.ClearDisplay :=
  fun s => ⟨_, rfl, rfl, OthersKept.setDisp s _ _, Display.cell_clear⟩

/-! ### What DRW answers (R201) -/

section
variable (s : State) (x y : Reg) (n : Fin 16)

/-- The buffer and the collision flag of DRW Vx, Vy, n, the coordinates being read in `s` (43_display.md R201). -/
def State.drawing : Drawing :=
  Display.drawSprite s.disp (s.reg x) (s.reg y) (s.mem.readBytes s.i.toNat n.val)

/-- The state after DRW Vx, Vy, n has drawn. -/
def State.afterDraw : State := ((s.setDisp (s.drawing x y n).1).setFlag (s.drawing x y n).2).setOut Output.ok

/-- DRW is a checked read of the sprite rows, then the drawing and its flag. -/
theorem exec_drw : exec (.drw x y n) s = s.withRange .read s.i.toNat n.val fun s =>
    ((s.setDisp (s.drawing x y n).1).setFlag (s.drawing x y n).2).complete := rfl

/-- DRW with its rows in bounds draws. -/
theorem exec_drw_inside {n : Fin 16} (h : n.val = 0 ∨ s.i.toNat + n.val - 1 ≤ lastAddress) :
    exec (.drw x y n) s = .next (s.afterDraw x y n) :=
  (exec_drw s x y n).trans (s.withRange_inside .read s.i.toNat n.val _ h)

/-- DRW with a row past 0xFFF raises OutOfBoundsAccess at P, and does nothing else (D16). -/
theorem exec_drw_outside {n : Fin 16} (h0 : n.val ≠ 0) (h : lastAddress < s.i.toNat + n.val - 1) :
    RaisesFatal (exec (.drw x y n) s) s (.outOfBounds .read (max s.i.toNat 0x1000) (s.pc - 2#16)) := by
  rw [exec_drw, s.withRange_outside .read s.i.toNat n.val _ h0 h]
  exact s.raiseFatal_spec _

/-- A draw keeps all but the registers and the display. -/
theorem State.afterDraw_othersKept : OthersKept [.v, .disp] s (s.afterDraw x y n) := by
  intro p hp
  cases p <;> simp_all [Part.same, State.keyDown, State.afterDraw]

/-- Of the registers a draw writes VF alone, with the collision flag. -/
theorem State.reg_afterDraw (r : Reg) :
    (s.afterDraw x y n).reg r = if r = regF then (if (s.drawing x y n).2 then 1#8 else 0#8) else s.reg r :=
  State.reg_setFlag _ _ r

/-! ### The cells and the flag after a draw -/

/-- A draw toggles exactly the cells that a set sprite bit covers, and collides exactly where one of them is set. -/
theorem State.drawing_spec :
    (∀ px py,
      (SpriteCovers s x y n px py → Display.cell (s.drawing x y n).1 px py = !Display.cell s.disp px py) ∧
      (¬ SpriteCovers s x y n px py → Display.cell (s.drawing x y n).1 px py = Display.cell s.disp px py)) ∧
    ((s.drawing x y n).2 = true ↔
      ∃ px py, SpriteCovers s x y n px py ∧ Display.cell s.disp px py = true) := by
  have hrows : (s.mem.readBytes s.i.toNat n.val).length ≤ 32 := by rw [Memory.readBytes_length]; omega
  obtain ⟨hcells, hflag⟩ := drawRows_spec (s.reg x) (s.reg y) 0 _ hrows (s.disp, false)
  simp only [spriteCovers_iff]
  exact ⟨hcells, hflag.trans (by simp)⟩

/-- A draw changes exactly the cells that a set sprite bit covers. -/
theorem State.cell_afterDraw_ne_iff (px : Fin 64) (py : Fin 32) :
    Display.cell (s.afterDraw x y n).disp px py ≠ Display.cell s.disp px py ↔ SpriteCovers s x y n px py := by
  obtain ⟨hcovered, hother⟩ := (s.drawing_spec x y n).1 px py
  exact ⟨fun hne => not_not.mp (mt hother hne), fun h => Bool.eq_not.mp (hcovered h)⟩

/-- VF is 1 after a draw exactly where a covered cell was set. -/
theorem State.afterDraw_flag_iff : (s.afterDraw x y n).reg regF = 1#8 ↔
    ∃ px py, SpriteCovers s x y n px py ∧ Display.cell s.disp px py = true := by
  rw [← (s.drawing_spec x y n).2, State.reg_afterDraw, if_pos rfl]
  cases (s.drawing x y n).2 <;> decide

/-- VF is 1 or 0 after a draw. -/
theorem State.afterDraw_flag_cases : (s.afterDraw x y n).reg regF = 1#8 ∨ (s.afterDraw x y n).reg regF = 0#8 := by
  rw [State.reg_afterDraw, if_pos rfl]
  cases (s.drawing x y n).2 <;> decide

end

/-- Settles O22: in bounds the answer is `afterDraw`, whose cells and flag are read off `SpriteCovers`, else the check
raises before VF or a cell is written. -/
theorem drawTogglesSprite : Obligations.DrawTogglesSprite := by
  intro x y n s
  have hflag := s.afterDraw_flag_iff x y n
  exact ⟨fun hin => ⟨_, exec_drw_inside s x y hin, rfl, s.afterDraw_othersKept x y n,
      fun r hr => (s.reg_afterDraw x y n r).trans (if_neg hr), (s.drawing_spec x y n).1, hflag.mpr,
      fun hnone => (s.afterDraw_flag_cases x y n).resolve_left (mt hflag.mp hnone)⟩,
    exec_drw_outside s x y⟩

/-- Settles O23: a set cell is covered exactly where the draw turns it off. -/
theorem collisionLaw : Obligations.CollisionLaw := by
  intro x y n s hin
  refine ⟨_, exec_drw_inside s x y hin, (s.afterDraw_flag_iff x y n).trans ?_, s.afterDraw_flag_cases x y n⟩
  refine exists_congr fun px => exists_congr fun py => ?_
  rw [and_comm, ← s.cell_afterDraw_ne_iff x y n px py]
  exact and_congr_right fun hset => by rw [hset, ne_eq, Bool.not_eq_true]

/-! ### Two draws of one sprite (R203, R205) -/

/-- Two cells that differ from a third in the same case are equal. -/
theorem cell_eq_of_ne_iff {a b c : Bool} (h : a ≠ c ↔ b ≠ c) : a = b := by
  revert a b c
  decide

section
variable {s s' : State} {x y : Reg} {n : Fin 16}

/-- The cells a sprite covers depend on I, the sprite bytes, and the coordinates modulo 64 and 32, alone. -/
theorem spriteCovers_congr (hi : s'.i = s.i)
    (hrows : ∀ row : Nat, row < n.val → s'.mem.read (s.i.toNat + row) = s.mem.read (s.i.toNat + row))
    (hx : (s'.reg x).toNat % 64 = (s.reg x).toNat % 64) (hy : (s'.reg y).toNat % 32 = (s.reg y).toNat % 32)
    (px : Fin 64) (py : Fin 32) : SpriteCovers s' x y n px py ↔ SpriteCovers s x y n px py := by
  unfold SpriteCovers
  refine exists_congr fun row => exists_congr fun col => and_congr_right fun hrow => ?_
  rw [hi, hrows row hrow, Nat.add_mod (s'.reg x).toNat, Nat.add_mod (s'.reg y).toNat, hx, hy, ← Nat.add_mod,
    ← Nat.add_mod]

section
variable (hcov : ∀ px py, SpriteCovers s' x y n px py ↔ SpriteCovers s x y n px py)
include hcov

/-- Drawing the same cells over what a draw left restores every cell. -/
theorem State.afterDraw_afterDraw_disp (hd : Part.same .disp (s.afterDraw x y n) s') :
    Part.same .disp s (s'.afterDraw x y n) := by
  intro px py
  refine cell_eq_of_ne_iff (c := Display.cell s'.disp px py) ?_
  rw [s'.cell_afterDraw_ne_iff x y n px py, hcov, hd px py, ← s.cell_afterDraw_ne_iff x y n px py, ne_comm]

/-- Drawing the same cells over the same display leaves the same display. -/
theorem State.afterDraw_disp_congr (hd : Part.same .disp s s') :
    Part.same .disp (s.afterDraw x y n) (s'.afterDraw x y n) := by
  intro px py
  refine cell_eq_of_ne_iff (c := Display.cell s'.disp px py) ?_
  rw [s'.cell_afterDraw_ne_iff x y n px py, hcov, hd px py, s.cell_afterDraw_ne_iff x y n px py]

/-- Drawing the same cells over the same display collides alike. -/
theorem State.afterDraw_flag_congr (hd : Part.same .disp s s') :
    (s'.afterDraw x y n).reg regF = (s.afterDraw x y n).reg regF := by
  have hcollides : (s'.drawing x y n).2 = (s.drawing x y n).2 := by
    rw [Bool.eq_iff_iff, (s'.drawing_spec x y n).2, (s.drawing_spec x y n).2]
    exact exists_congr fun px => exists_congr fun py => and_congr (hcov px py) (by rw [hd px py])
  rw [State.reg_afterDraw, State.reg_afterDraw, if_pos rfl, if_pos rfl, hcollides]

end

end

/-- Settles O24: the second draw covers the cells of the first. -/
theorem drawTwiceRestores : Obligations.DrawTwiceRestores := by
  intro x y n s hin
  refine ⟨_, exec_drw_inside s x y hin, fun t' hi hx hy hrows hd => ?_⟩
  have hcov := spriteCovers_congr hi hrows (congrArg (·.toNat % 64) hx) (congrArg (·.toNat % 32) hy)
  exact ⟨_, exec_drw_inside t' x y (by rwa [hi]), State.afterDraw_afterDraw_disp hcov hd⟩

/-- Settles O25: each set bit covers its wrapped cell, and the covered cells depend on the coordinates modulo 64 and 32
alone. -/
theorem coordinatesWrap : Obligations.CoordinatesWrap := by
  intro x y n s hin
  constructor
  · refine ⟨_, exec_drw_inside s x y hin, fun row col px py hrow hcol hbit hpx hpy => ?_⟩
    have hcov : SpriteCovers s x y n px py := ⟨row, col, hrow, hcol, hbit, hpx, hpy⟩
    exact ((s.drawing_spec x y n).1 px py).1 hcov
  · intro s' hi hmem hd hx hy
    have hcov := spriteCovers_congr (n := n) hi (fun row _ => hmem (s.i.toNat + row)) hx hy
    exact ⟨_, _, exec_drw_inside s x y hin, exec_drw_inside s' x y (by rwa [hi]),
      State.afterDraw_disp_congr hcov hd, State.afterDraw_flag_congr hcov hd⟩

end Sys2Proof.Machine
end

section
/-! Keys and timers (44_input_timers.md): the key skips, the key wait, the timer transfers, and the law of the wait over
any list of calls and ticks. -/
namespace Sys2Proof.Machine

/-! ### The key skips (R220, R221) -/

theorem exec_skp (x : Reg) (s : State) :
    exec (.skp x) s = s.withKey x fun k => (s.skipIf (s.keyDown k)).complete := rfl

theorem exec_sknp (x : Reg) (s : State) :
    exec (.sknp x) s = s.withKey x fun k => (s.skipIf (!s.keyDown k)).complete := rfl

/-- A key index above 15 raises before any write, whatever would be done with the key (D17). -/
theorem State.withKey_raises {s : State} {x : Reg} (hk : 15 < (s.reg x).toNat) (f : KeyIx → StepResult) :
    RaisesFatal (s.withKey x f) s (.outOfBounds .key (s.reg x).toNat s.instrAddr) := by
  rw [s.withKey_illegal x f hk]
  exact s.raiseFatal_spec _

/-- Settles O26: both skips are `skipIf` on the level of the key that Vx names, SKNP on its inverse. -/
theorem keySkips : Obligations.KeySkips := by
  intro x s
  rw [exec_skp, exec_sknp]
  refine ⟨fun k hk => ⟨?_, ?_⟩, fun hk => ⟨State.withKey_raises hk _, State.withKey_raises hk _⟩⟩
  · exact ⟨_, s.withKey_legal x _ k hk, rfl, OthersKept.skipIf s _ _, s.skipIf_pc _⟩
  · refine ⟨_, s.withKey_legal x _ k hk, rfl, OthersKept.skipIf s _ _, (s.skipIf_pc _).trans ?_⟩
    cases s.keyDown k <;> rfl

/-! ### The key wait (R222) -/

/-- What a call that waits for a key gives its caller: KEY_WAIT and no report. -/
def Output.keyWait : Output := { result := .status .keyWait, report := none }

/-- With a key down FX0A completes with the lowest one in Vx. -/
theorem exec_ldK_of_down {x : Reg} {s : State} {k : KeyIx} (hk : s.keyDown k = true)
    (hlow : ∀ j : KeyIx, j < k → s.keyDown j = false) :
    exec (.ldK x) s = (s.setReg x (BitVec.ofNat 8 k.val)).complete := by
  rw [exec, execLdK, (s.firstKey_eq_some k).mpr ⟨hk, hlow⟩]

/-- With no key down FX0A goes back to P with KEY_WAIT. -/
theorem exec_ldK_of_up {x : Reg} {s : State} (hup : ∀ k : KeyIx, s.keyDown k = false) :
    exec (.ldK x) s = .next ((s.setPc (s.pc - instrSize)).setOut Output.keyWait) := by
  rw [exec, execLdK, s.firstKey_eq_none.mpr hup]
  rfl

/-- A key number fits in a byte. -/
theorem keyIx_byte_toNat (k : KeyIx) : (BitVec.ofNat 8 k.val).toNat = k.val := by
  rw [BitVec.toNat_ofNat]
  omega

/-- Settles O27: the ascending scan finds the lowest key that is down, or none. -/
theorem keyWaitOrLowestKey : Obligations.KeyWaitOrLowestKey := by
  refine fun x s => ⟨fun k hk hlow => ?_, fun hup => ?_⟩
  · obtain ⟨t, hdone, hout, hkept, hreg⟩ := s.setReg_completes x (BitVec.ofNat 8 k.val)
    refine ⟨t, (exec_ldK_of_down hk hlow).trans hdone, hout, hkept, ?_, fun r hr => (hreg r).trans (if_neg hr)⟩
    rw [hreg, if_pos rfl, keyIx_byte_toNat]
  · exact ⟨_, exec_ldK_of_up hup, rfl, OthersKept.setPc s _ _, rfl⟩

/-! ### The timer transfers (R223 to R225) -/

/-- Writing DT keeps every other part. -/
theorem OthersKept.setDt (s : State) (b : Byte) (o : Output) : OthersKept [.dt] s ((s.setDt b).setOut o) := by
  intro p hp
  cases p <;> simp_all [Part.same, State.keyDown]

/-- Writing ST keeps every other part. -/
theorem OthersKept.setSt (s : State) (b : Byte) (o : Output) : OthersKept [.st] s ((s.setSt b).setOut o) := by
  intro p hp
  cases p <;> simp_all [Part.same, State.keyDown]

/-- Settles O29: each transfer is one write and completes with status OK, which is no cue. -/
theorem timerTransfers : Obligations.TimerTransfers :=
  fun x s =>
    ⟨s.setReg_completes x s.dt, ⟨_, rfl, rfl, OthersKept.setDt s _ _, rfl⟩,
      ⟨_, rfl, rfl, OthersKept.setSt s _ _, rfl⟩⟩

/-! ### Frames along a run -/

theorem Part.same_refl (p : Part) (s : State) : p.same s s := by
  cases p with
  | mem | v | stack | key => exact fun _ => rfl
  | disp => exact fun _ _ => rfl
  | _ => rfl

theorem Part.same_trans {p : Part} {s t u : State} (hst : p.same s t) (htu : p.same t u) : p.same s u := by
  cases p with
  | mem | v | stack | key => exact fun a => (htu a).trans (hst a)
  | disp => exact fun px py => (htu px py).trans (hst px py)
  | _ => exact Eq.trans htu hst

theorem OthersKept.trans {L : List Part} {s t u : State} (hst : OthersKept L s t) (htu : OthersKept L t u) :
    OthersKept L s u :=
  fun p hp => Part.same_trans (hst p hp) (htu p hp)

/-- A frame may leave out more. -/
theorem OthersKept.mono {L M : List Part} {s t : State} (h : OthersKept L s t) (hLM : L ⊆ M) : OthersKept M s t :=
  fun p hp => h p fun hL => hp (hLM hL)

/-! ### One tick of a running session (R254) -/

/-- A tick of a running session keeps all but the timers. -/
theorem State.tick_othersKept (s : State) : OthersKept [.dt, .st] s s.tick := by
  intro p hp
  cases p <;> simp_all [Part.same, State.reg, State.keyDown]

theorem State.tick_dt {s : State} (hc : s.halted = none) : s.tick.dt = countDown s.dt := by
  rw [State.tick, hc]
  rfl

theorem State.tick_st {s : State} (hc : s.halted = none) : s.tick.st = countDown s.st := by
  rw [State.tick, hc]
  rfl

/-! ### The key-wait law (R226, R293) -/

/-- A running session at an FX0A. -/
structure State.AtKeyWait (x : Reg) (s : State) : Prop where
  running : s.halted = none
  fetched : s.fetch = some (encode (.ldK x))

/-- From `s` to `t` the timers counted `n` ticks, and nothing else changed but the list of operations. -/
def OnlyTicked (n : Nat) (s t : State) : Prop :=
  OthersKept [.dt, .st, .pending] s t ∧ t.dt.toNat = s.dt.toNat - n ∧ t.st.toNat = s.st.toNat - n

theorem OnlyTicked.refl (s : State) : OnlyTicked 0 s s := ⟨fun p _ => p.same_refl s, rfl, rfl⟩

theorem OnlyTicked.trans {m n : Nat} {s t u : State} (hst : OnlyTicked m s t) (htu : OnlyTicked n t u) :
    OnlyTicked (m + n) s u := by
  obtain ⟨hkept, hdelay, hsound⟩ := hst
  obtain ⟨hkept', hdelay', hsound'⟩ := htu
  exact ⟨hkept.trans hkept', by omega, by omega⟩

section
variable {x : Reg} {s t : State}

/-- The word at PC, and that the session runs, are not the timers' to change. -/
theorem State.AtKeyWait.onlyTicked {n : Nat} (h : s.AtKeyWait x) (hst : OnlyTicked n s t) : t.AtKeyWait x := by
  obtain ⟨hkept, -, -⟩ := hst
  have hhalted : t.halted = s.halted := hkept .halted (by decide)
  have hfetch : t.fetch = s.fetch := State.fetch_congr (hkept .pc (by decide)) (hkept .mem (by decide))
  exact ⟨hhalted.trans h.running, hfetch.trans h.fetched⟩

/-- A call at an FX0A executes it. -/
theorem State.AtKeyWait.step_call (h : s.AtKeyWait x) (hn : s.nextOp = .executeOne) :
    step s = exec (.ldK x) s.takeOp.advance :=
  step_decoded hn h.running h.fetched (decodeWord_encode rfl)

/-- Going back to P after the fetch advance leaves the state as it was before it. -/
theorem State.advance_setPc_back (s : State) : s.advance.setPc (s.advance.pc - instrSize) = s := by
  have hpc : s.pc + instrSize - instrSize = s.pc := BitVec.add_sub_cancel _ _
  rw [State.advance_pc, hpc]
  rfl

/-- While no key is down a call at an FX0A changes nothing. -/
theorem State.AtKeyWait.step_call_up (h : s.AtKeyWait x) (hn : s.nextOp = .executeOne)
    (hup : ∀ k : KeyIx, s.keyDown k = false) : step s = .next (s.takeOp.setOut Output.keyWait) := by
  rw [h.step_call hn, exec_ldK_of_up (s := s.takeOp.advance) hup, State.advance_setPc_back]

/-- While no key is down a listed call at an FX0A changes nothing, and a listed tick the timers alone. -/
theorem State.AtKeyWait.step_listed {op : Operation} {rest : List Operation} (h : s.AtKeyWait x)
    (hup : ∀ k : KeyIx, s.keyDown k = false) (hp : s.pending = op :: rest) (hop : op = .executeOne ∨ op = .tick) :
    ∃ t, step s = .next t ∧ t.pending = rest ∧ OnlyTicked ([op].count .tick) s t := by
  have hrest : s.takeOp.pending = rest := by rw [State.takeOp_pending hp]
  have hn : s.nextOp = op := State.nextOp_pending hp
  rcases hop with rfl | rfl
  · have hkept : OthersKept [.pending] s (s.takeOp.setOut Output.keyWait) := .of_takeOp hp (OthersKept.setOut _ _)
    exact ⟨_, h.step_call_up hn hup, hrest, hkept.mono (by simp), rfl, rfl⟩
  · have hkept : OthersKept [.pending, .dt, .st] s s.takeOp.tick := .of_takeOp hp s.takeOp.tick_othersKept
    refine ⟨_, step_operation hn, s.takeOp.tick_pending.trans hrest, hkept.mono (by simp), ?_, ?_⟩
    · rw [State.tick_dt (s := s.takeOp) h.running]
      exact countDown_toNat s.dt
    · rw [State.tick_st (s := s.takeOp) h.running]
      exact countDown_toNat s.st

/-- While no key is down, a run over listed calls and ticks at an FX0A counts its ticks and changes nothing else. -/
theorem State.AtKeyWait.run_listed {ops rest : List Operation} (h : s.AtKeyWait x)
    (hup : ∀ k : KeyIx, s.keyDown k = false) (hp : s.pending = ops ++ rest)
    (hops : ∀ op ∈ ops, op = .executeOne ∨ op = .tick) :
    ∃ t, Sys2Proof.core.run ops.length s = .next t ∧ t.pending = rest ∧ OnlyTicked (ops.count .tick) s t := by
  induction ops generalizing s with
  | nil => exact ⟨s, rfl, hp, .refl s⟩
  | cons op ops ih =>
    obtain ⟨hop, hops⟩ := List.forall_mem_cons.mp hops
    obtain ⟨t, hstep, hpt, hst⟩ := h.step_listed hup hp hop
    have hkeys : Part.same .key s t := hst.1 .key (by decide)
    obtain ⟨u, hrun, hpu, htu⟩ := ih (h.onlyTicked hst) (fun k => (hkeys k).trans (hup k)) hpt hops
    have hcount : (op :: ops).count .tick = [op].count .tick + ops.count .tick := List.count_append (l₁ := [op])
    exact ⟨u, (core_run_succ _ _ _ hstep).trans hrun, hpu, hcount ▸ hst.trans htu⟩

end

/-- The fetch advance and a register write keep all but the registers and PC. -/
theorem OthersKept.advance_setReg (s : State) (x : Reg) (b : Byte) (o : Output) :
    OthersKept [.v, .pc] s ((s.advance.setReg x b).setOut o) := by
  intro p hp
  cases p <;> simp_all [Part.same, State.keyDown]

/-- Settles O28: the wait by induction on the list of calls and ticks, and the call that ends it. -/
theorem keyWaitLaw : Obligations.KeyWaitLaw := by
  intro x s hc hf
  have hwait : s.AtKeyWait x := ⟨hc, hf⟩
  refine ⟨fun hup ops rest hp hops => hwait.run_listed hup hp hops, fun hn k hk hlow => ?_⟩
  have hreg (r : Reg) := s.takeOp.advance.reg_setReg x r (BitVec.ofNat 8 k.val)
  refine ⟨_, (hwait.step_call hn).trans (exec_ldK_of_down (s := s.takeOp.advance) hk hlow), ?_, fun r hr => ?_, rfl,
    OthersKept.advance_setReg s.takeOp x _ _⟩
  · rw [State.reg_setOut, hreg, if_pos rfl, keyIx_byte_toNat]
  · exact (hreg r).trans (if_neg hr)

end Sys2Proof.Machine
end

section
/-! What a call returns (60_exceptions.md R241, R245, R246): the answers that executing a fetched word can give, the
status that comes with each, and what a raised condition leaves as it was. -/
namespace Sys2Proof.Machine

/-! ### The answers of an executed word -/

/-- What executing a word at `s` can answer: the fatal condition raised in `s` itself, before any write; a state with
`halted` as in `s` and a status that is not fatal; or the fault, which is for an illegal SP alone. -/
inductive WordAnswer (s : State) : StepResult → Prop
  | raises (c : Fatal) : WordAnswer s (.next (s.recordFatal c))
  | goesOn {t : State} {st : Status} (hhalted : t.halted = s.halted) (hresult : t.out.result = .status st)
      (hst : ∀ c : Fatal, st ≠ .fatal c) : WordAnswer s (.next t)
  | stops (hsp : ¬ s.spLegal) : WordAnswer s (.fault .illegalStackPointer)

namespace WordAnswer
variable {s : State}

/-- A completed instruction goes on with status OK. -/
theorem complete {t : State} (h : t.halted = s.halted) : WordAnswer s t.complete :=
  .goesOn h rfl (fun _ => nofun)

/-- A key wait goes on with status KEY_WAIT. -/
theorem keyWait {t : State} (h : t.halted = s.halted) : WordAnswer s t.keyWait :=
  .goesOn h rfl (fun _ => nofun)

/-- An unknown opcode goes on with its status. -/
theorem raiseUnknown (w : Word) : WordAnswer s (s.raiseUnknown w) :=
  .goesOn rfl rfl (fun _ => nofun)

/-- A checked access raises, or answers as its continuation does. -/
theorem withRange {kind : AccessKind} {base count : Nat} {k : State → StepResult} (hk : WordAnswer s (k s)) :
    WordAnswer s (s.withRange kind base count k) := by
  obtain ⟨h, -⟩ | ⟨c, h⟩ := s.withRange_cases kind base count k <;> rw [h]
  · exact hk
  · exact .raises c

/-- A checked key raises, or answers as its continuation does. -/
theorem withKey {x : Reg} {f : KeyIx → StepResult} (hf : ∀ k, WordAnswer s (f k)) : WordAnswer s (s.withKey x f) := by
  obtain ⟨k, h⟩ | ⟨c, h⟩ := s.withKey_cases x f <;> rw [h]
  · exact hf k
  · exact .raises c

end WordAnswer

/-- RET raises, completes, or stops where SP is above 16. -/
theorem execRet_answer (s : State) : WordAnswer s (exec .ret s) := by
  simp only [exec, execRet]
  split
  · exact .raises _
  · split
    · exact .complete rfl
    · exact .stops (by unfold State.spLegal; omega)

/-- CALL raises, completes, or stops where SP is above 16. -/
theorem execCall_answer (nnn : Addr12) (s : State) : WordAnswer s (exec (.call nnn) s) := by
  simp only [exec, execCall]
  split
  · exact .raises _
  · split
    · exact .complete rfl
    · exact .stops (by unfold State.spLegal; bv_omega)

/-- FX0A completes or waits. -/
theorem execLdK_answer (x : Reg) (s : State) : WordAnswer s (exec (.ldK x) s) := by
  simp only [exec, execLdK]
  split
  · exact .complete rfl
  · exact .keyWait rfl

/-- Every instruction answers in one of the three ways: what it checks it checks before any write. -/
theorem exec_answer (i : Instr) (s : State) : WordAnswer s (exec i s) := by
  cases i with
  | sys nnn => exact .raiseUnknown _
  | ret => exact execRet_answer s
  | call nnn => exact execCall_answer nnn s
  | ldK x => exact execLdK_answer x s
  | seImm | sneImm | seReg | sneReg => exact .complete (s.skipIf_halted _)
  | orReg | andReg | xorReg => exact .complete (s.writeLogic_halted _ _)
  | skp x => exact exec_skp x s ▸ .withKey fun _ => .complete (s.skipIf_halted _)
  | sknp x => exact exec_sknp x s ▸ .withKey fun _ => .complete (s.skipIf_halted _)
  | ldB x => exact exec_ldB s x ▸ .withRange (.complete rfl)
  | ldStore x => exact exec_ldStore s x ▸ .withRange (.complete rfl)
  | ldLoad x => exact exec_ldLoad s x ▸ .withRange (.complete rfl)
  | drw x y n => exact exec_drw s x y n ▸ .withRange (.complete rfl)
  | _ => exact .complete rfl

/-- A fetched word answers so, whether it decodes or not. -/
theorem executeWord_answer (w : Word) (s : State) : WordAnswer s (executeWord w s) := by
  unfold executeWord
  split
  · exact exec_answer _ s
  · exact .raiseUnknown w

/-! ### Every call returns a status (R246) -/

/-- The call that left this session returned the status, and `halted` is as that status says. -/
def State.Returned (t : State) (st : Status) : Prop :=
  t.out.result = .status st ∧ ((∀ c : Fatal, st ≠ .fatal c) → t.halted = none) ∧
    ∀ c : Fatal, st = .fatal c → t.halted = some c

theorem State.Returned.of_fatal {t : State} {c : Fatal} (hresult : t.out.result = .status (.fatal c))
    (hhalted : t.halted = some c) : t.Returned (.fatal c) :=
  ⟨hresult, fun h => absurd rfl (h c), fun _ h => Status.fatal.inj h ▸ hhalted⟩

theorem State.Returned.of_running {t : State} {st : Status} (hresult : t.out.result = .status st)
    (hst : ∀ c : Fatal, st ≠ .fatal c) (hhalted : t.halted = none) : t.Returned st :=
  ⟨hresult, fun _ => hhalted, fun c h => absurd h (hst c)⟩

/-- A word executed in a running session returns a status, or SP is illegal. -/
theorem WordAnswer.returned {s : State} {o : StepResult} (h : WordAnswer s o) (hc : s.halted = none) :
    (∃ t st, o = .next t ∧ t.Returned st) ∨ (¬ s.spLegal ∧ o = .fault .illegalStackPointer) := by
  cases h with
  | raises c => exact .inl ⟨_, _, rfl, .of_fatal rfl rfl⟩
  | goesOn hhalted hresult hst => exact .inl ⟨_, _, rfl, .of_running hresult hst (hhalted.trans hc)⟩
  | stops hsp => exact .inr ⟨hsp, rfl⟩

/-- A call returns a status in a halted session, at a fetch out of bounds and at a word it executes, or SP is
illegal. -/
theorem step_call_returned {s : State} (hn : s.nextOp = .executeOne) :
    (∃ t st, step s = .next t ∧ t.Returned st) ∨ (¬ s.spLegal ∧ step s = .fault .illegalStackPointer) := by
  cases hc : s.halted with
  | some c => exact .inl ⟨_, _, step_halted hn hc, .of_fatal rfl hc⟩
  | none =>
    cases hf : s.fetch with
    | none => exact .inl ⟨_, _, step_fetch_outside hn hc hf, .of_fatal rfl rfl⟩
    | some w =>
      rw [step_fetched hn hc hf]
      exact (executeWord_answer w s.takeOp.advance).returned hc

/-- Settles O52: with a legal SP no call faults, so each returns its status. -/
theorem everyCallReturnsAStatus : Obligations.EveryCallReturnsAStatus := by
  intro s hsp hn
  exact (step_call_returned hn).resolve_right fun ⟨hillegal, _⟩ => hillegal hsp

/-! ### A raised condition leaves the rest as it was (R245, R70) -/

/-- Where executing a word in a running session leaves a condition, the answer is the state before it with that
condition recorded. -/
theorem WordAnswer.raised {s t : State} {c : Fatal} (h : WordAnswer s (.next t)) (hc : s.halted = none)
    (ht : t.halted = some c) : t = s.recordFatal c := by
  cases h with
  | raises c' => rw [Option.some.inj ht]
  | goesOn hhalted => simp [hhalted, hc] at ht

/-- A step of a running session that leaves a condition is a call, and the condition is recorded at the fetch, or after
the fetch advance and before any other write. -/
theorem step_raised {s t : State} {c : Fatal} (hc : s.halted = none) (h : step s = .next t) (ht : t.halted = some c) :
    s.nextOp = .executeOne ∧ ((s.fetch = none ∧ t = s.takeOp.recordFatal c) ∨
      (s.fetch ≠ none ∧ t = s.takeOp.advance.recordFatal c)) := by
  by_cases hn : s.nextOp = .executeOne
  · refine ⟨hn, ?_⟩
    cases hf : s.fetch with
    | none =>
      rw [step_fetch_outside hn hc hf] at h
      cases h
      exact .inl ⟨rfl, by rw [Option.some.inj ht]⟩
    | some w =>
      have hanswer : WordAnswer s.takeOp.advance (.next t) := by
        rw [← h, step_fetched hn hc hf]
        exact executeWord_answer w _
      exact .inr ⟨Option.some_ne_none w, hanswer.raised hc ht⟩
  · rw [State.perform_halted hn h, State.takeOp_halted, hc] at ht
    cases ht

/-- Recording a condition keeps every part but `halted`. -/
theorem OthersKept.recordFatal (s : State) (c : Fatal) : OthersKept [.halted] s (s.recordFatal c) := by
  obtain ⟨t, hanswer, -, -, hkept⟩ := s.raiseFatal_spec c
  cases hanswer
  exact hkept

/-- The fetch advance keeps every part but PC. -/
theorem OthersKept.advance (s : State) : OthersKept [.pc] s s.advance := OthersKept.setPc s (s.pc + instrSize) s.out

/-- Settles O53: the condition is recorded in the state at P or at P + 2, in which nothing else was written. -/
theorem fatalLeavesNoPartialWrite : Obligations.FatalLeavesNoPartialWrite := by
  intro s t c hc h ht
  obtain ⟨hn, ⟨hf, rfl⟩ | ⟨hf, rfl⟩⟩ := step_raised hc h ht
  · exact ⟨hn, (OthersKept.recordFatal _ c).mono (by simp), rfl, (if_pos hf).symm⟩
  · have hadvance : OthersKept [.halted, .pc] s.takeOp s.takeOp.advance := (OthersKept.advance _).mono (by simp)
    exact ⟨hn, hadvance.trans ((OthersKept.recordFatal _ c).mono (by simp)), rfl, (if_neg hf).symm⟩

/-! ### UnknownOpcode (R241) -/

/-- The word that decodes to SYS is the one SYS reports. -/
theorem encode_sys_of_decodeWord {w : Word} {nnn : Addr12} (h : decodeWord w = .ok (.sys nnn)) :
    encode (.sys nnn) = w := by
  obtain ⟨-, hbits⟩ := decodeWord_readsAs h
  exact hbits.symm.trans BitVec.and_allOnes

/-- A word that does not decode, or decodes to SYS, is reported and has no other effect. -/
theorem executeWord_unknown {w : Word} (h : (∃ e, decodeWord w = .error e) ∨ ∃ nnn, decodeWord w = .ok (.sys nnn))
    (s : State) : executeWord w s = s.raiseUnknown w := by
  obtain ⟨e, he⟩ | ⟨nnn, hsys⟩ := h
  · simp [executeWord, he]
  · simp [executeWord, hsys, exec, execSys, encode_sys_of_decodeWord hsys]

/-- After the fetch advance the reported address is that of the fetched word. -/
theorem State.instrAddr_advance (s : State) : s.advance.instrAddr = s.pc := BitVec.add_sub_cancel s.pc instrSize

/-- Settles O42: the fetch advance writes PC, and the report is of the fetched word at P. -/
theorem unknownOpcodeContinues : Obligations.UnknownOpcodeContinues := by
  intro s w hn hc hf hw
  refine ⟨_, (step_fetched hn hc hf).trans (executeWord_unknown hw _), rfl, OthersKept.setPc s.takeOp _ _, ?_⟩
  rw [State.setOut_out, State.instrAddr_advance, State.takeOp_pc]

end Sys2Proof.Machine
end

section
/-! `tick()` (60_exceptions.md R254 to R257): the countdown and the cue. -/
namespace Sys2Proof.Machine

/-- A timer reaches 0 by counting down exactly from 1. -/
theorem countDown_expires_iff (t : Byte) : 0 < t.toNat ∧ countDown t = 0#8 ↔ t.toNat = 1 := by
  rw [← BitVec.toNat_inj, countDown_toNat, BitVec.toNat_ofNat]
  omega

/-- A tick of a running session returns the cue, which is true exactly where ST was 1. -/
theorem State.tick_out {s : State} (hc : s.halted = none) :
    s.tick.out = { result := .cue (decide (s.st.toNat = 1)), report := none } := by
  rw [State.tick, hc]
  simp only [countDown_expires_iff]
  rfl

/-- A tick that gives the cue is one of a running session that takes ST from 1 to 0. -/
theorem State.tick_cue {s : State} (h : s.tick.out.result = .cue true) :
    s.halted = none ∧ s.st = 1#8 ∧ s.tick.st = 0#8 := by
  cases hc : s.halted with
  | some c =>
    rw [State.tick_of_halted hc] at h
    cases h
  | none =>
    rw [State.tick_out hc] at h
    have hst : s.st = 1#8 := BitVec.eq_of_toNat_eq (of_decide_eq_true (Result.cue.inj h))
    refine ⟨rfl, hst, ?_⟩
    rw [State.tick_st hc, hst]
    rfl

/-- `loadProgram` returns whether the image was taken, and emits no report. -/
theorem State.loadProgram_result (s : State) (image : List Byte) :
    ∃ accepted, (s.loadProgram image).out = Output.plain (.loaded accepted) := by
  unfold State.loadProgram
  split
  · exact ⟨true, rfl⟩
  · exact ⟨false, rfl⟩

/-- Of the operations other than `executeOne()`, only `tick()` gives the cue (D21). -/
theorem State.perform_cue {op : Operation} {s t : State} (hop : op ≠ .executeOne) (h : s.perform op = .next t)
    (hcue : t.out.result = .cue true) : op = .tick ∧ s.halted = none ∧ s.st = 1#8 ∧ t.st = 0#8 := by
  cases op with
  | executeOne => exact absurd rfl hop
  | tick => cases h; exact ⟨rfl, State.tick_cue hcue⟩
  | loadProgram image =>
    cases h
    obtain ⟨accepted, hout⟩ := s.loadProgram_result image
    rw [hout] at hcue
    cases hcue
  | _ => cases h; cases hcue

/-- A step that gives the cue is a tick of a running session that takes ST from 1 to 0: a call returns a status. -/
theorem step_cue {s t : State} (h : step s = .next t) (hcue : t.out.result = .cue true) :
    s.nextOp = .tick ∧ s.halted = none ∧ s.st = 1#8 ∧ t.st = 0#8 := by
  by_cases hn : s.nextOp = .executeOne
  · obtain ⟨t', st, hstep, hresult, -⟩ | ⟨-, hfault⟩ := step_call_returned hn
    · obtain rfl : t' = t := Host.Outcome.next.inj (hstep.symm.trans h)
      cases hcue.symm.trans hresult
    · cases hfault.symm.trans h
  · exact State.perform_cue (s := s.takeOp) hn h hcue

/-- A step whose operation is `tick()` is that tick. -/
theorem step_tick {s : State} (hn : s.nextOp = .tick) : step s = .next s.takeOp.tick := step_operation hn

/-- Settles O30: a tick of a running session, a tick of a halted one, and the steps that give the cue. -/
theorem tickCountsDown : Obligations.TickCountsDown := by
  refine ⟨fun s hn => ⟨fun hc => ?_, fun c hc => ?_⟩, fun s t h hcue => step_cue h hcue⟩
  · have hdelay : s.takeOp.tick.dt = countDown s.dt := State.tick_dt (s := s.takeOp) hc
    have hsound : s.takeOp.tick.st = countDown s.st := State.tick_st (s := s.takeOp) hc
    exact ⟨_, step_tick hn, s.takeOp.tick_othersKept, hdelay ▸ countDown_toNat s.dt, hsound ▸ countDown_toNat s.st,
      State.tick_out (s := s.takeOp) hc⟩
  · exact ⟨_, step_of_halted hc (.inr hn), OthersKept.setOut _ _, rfl⟩

/-- The operation after a tick is the one that the schedule lists next. -/
theorem State.tick_nextOp (s : State) : s.tick.nextOp = s.nextOp := by
  simp [State.nextOp]

/-- Settles O31: the first tick takes ST from 1 to 0 with the cue, and the second leaves it at 0 without one. -/
theorem oneCuePerExpiry : Obligations.OneCuePerExpiry := by
  intro s hn hn' hc hst
  have hc' : s.takeOp.tick.halted = none := s.takeOp.tick_halted.trans hc
  have hst' : s.takeOp.tick.st = 0#8 := by
    rw [State.tick_st (s := s.takeOp) hc, State.takeOp_st, hst]
    rfl
  refine ⟨_, _, step_tick hn, hst', ?_, step_tick ((State.tick_nextOp _).trans hn'), ?_, ?_⟩
  · rw [State.tick_out (s := s.takeOp) hc, State.takeOp_st, hst]
    rfl
  · rw [State.tick_st (s := s.takeOp.tick.takeOp) hc', State.takeOp_st, hst']
    rfl
  · rw [State.tick_out (s := s.takeOp.tick.takeOp) hc', State.takeOp_st, hst']
    rfl

end Sys2Proof.Machine
end

section
/-! The host's operations (60_exceptions.md R262 to R265): setKey, readDisplay and the two loaders. -/
namespace Sys2Proof.Machine

/-- Writing a key keeps every other part. -/
theorem OthersKept.pressKey (s : State) (k : KeyIx) (b : Bool) : OthersKept [.key] s (s.pressKey k b) := by
  intro p hp
  cases p <;> simp_all [Part.same, State.reg]

/-- Settles O33: setKey is one key write. -/
theorem setKeyOperation : Obligations.SetKeyOperation :=
  fun s k b hn => ⟨_, step_operation hn, OthersKept.pressKey _ k b, fun j => s.takeOp.keyDown_pressKey k j b⟩

/-! ### readDisplay (R265, R35) -/

theorem Display.flat_length (d : Display) : (Display.flat d).length = 2048 := by
  simp [Display.flat]

/-- Cell (px, py) stands at `py * 64 + px` of the flat order. -/
theorem Display.flat_getElem? (d : Display) (px : Fin 64) (py : Fin 32) :
    (Display.flat d)[py.val * 64 + px.val]? = some (Display.cell d px py) := by
  have hcol : Fin.ofNat 64 (py.val * 64 + px.val) = px := Fin.ext (by simp [Fin.ofNat])
  have hrow : Fin.ofNat 32 ((py.val * 64 + px.val) / 64) = py := Fin.ext (by simp [Fin.ofNat]; omega)
  rw [Display.flat, List.getElem?_map, List.getElem?_range (by omega), Option.map_some, hcol, hrow]

/-- Settles O34: readDisplay sets the output alone, to the flat display. -/
theorem readDisplayOperation : Obligations.ReadDisplayOperation :=
  fun s hn => ⟨_, _, step_operation hn, OthersKept.setOut _ _, rfl, Display.flat_length s.disp,
    Display.flat_getElem? s.disp⟩

/-! ### The loaders (R262, R263) -/

/-- Settles O35: loadFont writes memory alone, the 80 bytes from 0 on. -/
theorem loadFontOperation : Obligations.LoadFontOperation :=
  fun s font hn => ⟨_, step_operation hn, OthersKept.setMem _ _ _,
    fun k => (s.mem.read_withFont font k.val).trans (dif_pos k.isLt),
    fun a ha => (s.mem.read_withFont font a).trans (dif_neg (Nat.not_lt.mpr ha))⟩

section
variable {image : List Byte} {policy : LoaderOversize}

/-- An image that fits, and any image under TRUNCATE, is written as far as it fits. -/
theorem Memory.withImage_taken (m : Memory) (h : image.length ≤ maxImage ∨ policy = .truncate) :
    m.withImage policy image = some (m.writeBytes loadAddress (image.take maxImage)) := by
  unfold Memory.withImage
  split
  · next hfits => rw [List.take_of_length_le hfits]
  · next hlong => rw [h.resolve_left hlong]

/-- An image that does not fit is rejected under REJECT. -/
theorem Memory.withImage_rejected (m : Memory) (h : maxImage < image.length) (hp : policy = .reject) :
    m.withImage policy image = none := by
  unfold Memory.withImage
  rw [if_neg (Nat.not_le.mpr h), hp]

/-- A byte of the image that fits is what its address from 0x200 on reads. -/
theorem Memory.read_image_at (m : Memory) {j : Nat} {b : Byte} (hj : j < maxImage) (hb : image[j]? = some b) :
    (m.writeBytes loadAddress (image.take maxImage)).read (loadAddress + j) = b := by
  obtain ⟨hlen, rfl⟩ := List.getElem?_eq_some_iff.mp hb
  rw [m.read_writeBytes_at loadAddress _ j (by rw [List.length_take]; omega), List.getElem_take]

/-- A byte outside the part of the image that fits reads as before. -/
theorem Memory.read_image_outside (m : Memory) {a : Nat}
    (ha : a < loadAddress ∨ loadAddress + min image.length maxImage ≤ a) :
    (m.writeBytes loadAddress (image.take maxImage)).read a = m.read a :=
  m.read_writeBytes_outside loadAddress _ a (by rwa [List.length_take, min_comm])

/-- loadProgram of an image that is taken writes it and answers ok. -/
theorem State.loadProgram_taken {s : State} (h : image.length ≤ maxImage ∨ s.params.loaderOversize = .truncate) :
    s.loadProgram image =
      (s.setMem (s.mem.writeBytes loadAddress (image.take maxImage))).setOut (Output.plain (.loaded true)) := by
  rw [State.loadProgram, s.mem.withImage_taken h]

/-- loadProgram of an image that is rejected answers so and does nothing else. -/
theorem State.loadProgram_rejected {s : State} (h : maxImage < image.length)
    (hp : s.params.loaderOversize = .reject) :
    s.loadProgram image = s.setOut (Output.plain (.loaded false)) := by
  rw [State.loadProgram, s.mem.withImage_rejected h hp]

/-- A step whose operation is `loadProgram` is that load. -/
theorem step_loadProgram {s : State} (hn : s.nextOp = .loadProgram image) :
    step s = .next (s.takeOp.loadProgram image) := step_operation hn

end

/-- Settles O36: the image is taken as far as it fits, or rejected. -/
theorem loadProgramOperation : Obligations.LoadProgramOperation := by
  refine fun s image hn => ⟨fun htaken => ?_, fun hlong hreject => ?_⟩ <;> rw [step_loadProgram hn]
  · rw [State.loadProgram_taken (s := s.takeOp) htaken]
    exact ⟨_, rfl, OthersKept.setMem _ _ _, rfl, fun _ _ => s.mem.read_image_at, fun _ => s.mem.read_image_outside⟩
  · rw [State.loadProgram_rejected (s := s.takeOp) hlong hreject]
    exact ⟨_, rfl, OthersKept.setOut _ _, rfl⟩

end Sys2Proof.Machine
end

section
/-! reset() and create (70_reset_and_hazards.md R280 to R282): what the one zeroes and leaves alone, and the registers and
the memory of a session that the other starts. -/
namespace Sys2Proof.Machine

/-! ### reset() (R280, R281) -/

/-- Every stack slot is 0 at creation. -/
theorem State.reset_stack_get (k : Fin 16) : State.reset.stack.get k = 0#16 := by
  simp [State.reset, Vector.get_eq_getElem]

/-- reset() gives the registers of a new session. -/
theorem State.reg_resetRegisters (s : State) (r : Reg) : s.resetRegisters.reg r = State.reset.reg r := rfl

/-- reset() gives the stack of a new session. -/
theorem State.resetRegisters_stack_eq_reset (s : State) : s.resetRegisters.stack = State.reset.stack := rfl

/-- reset() keeps memory, display, keys and `halted` (D23), and the model's own parts. -/
theorem OthersKept.resetRegisters (s : State) :
    OthersKept [.v, .i, .sp, .stack, .dt, .st, .pc] s s.resetRegisters := by
  intro p hp
  cases p <;> simp_all [Part.same, State.keyDown]

/-- Settles O32: the registers and the stack that reset() gives are those of a new session, which are zero. -/
theorem resetOperation : Obligations.ResetOperation :=
  fun s hn => ⟨s.takeOp.resetRegisters, step_operation hn, OthersKept.resetRegisters _,
    fun r => (s.takeOp.reg_resetRegisters r).trans (State.reset_reg r), rfl, rfl,
    fun k => s.takeOp.resetRegisters_stack_eq_reset ▸ State.reset_stack_get k, rfl, rfl, rfl, rfl⟩

/-! ### create (R282) -/

/-- Every cell is off at creation. -/
theorem State.reset_cell (px : Fin 64) (py : Fin 32) : Display.cell State.reset.disp px py = false :=
  Display.cell_clear px py

/-- Every key is up at creation. -/
theorem State.reset_keyDown (k : KeyIx) : State.reset.keyDown k = false := by
  simp [State.keyDown, State.reset, Vector.get_eq_getElem]

section
variable {font : Vector Byte 80} {image : List Byte} {a : Nat}

/-- The memory of a new session: the font from 0x000, the image as far as it fits from 0x200. -/
def createdMemory (font : Vector Byte 80) (image : List Byte) : Memory :=
  (Memory.withFont [] font).writeBytes loadAddress (image.take maxImage)

/-- Where the loader takes the image, the session is State.reset with that memory and the parameters. -/
theorem State.create_taken {p : Params} (h : image.length ≤ maxImage ∨ p.loaderOversize = .truncate) :
    State.create p font image = some { State.reset with mem := createdMemory font image, params := p } := by
  rw [State.create, Memory.withImage_taken _ h]
  rfl

/-- Where the loader rejects the image there is no session. -/
theorem State.create_rejected {p : Params} (h : maxImage < image.length) (hp : p.loaderOversize = .reject) :
    State.create p font image = none := by
  rw [State.create, Memory.withImage_rejected _ h hp]

/-- Above the font, memory with nothing but the font loaded reads 0. -/
theorem Memory.read_withFont_nil_above (ha : 80 ≤ a) : (Memory.withFont [] font).read a = 0#8 := by
  rw [Memory.read_withFont, dif_neg (Nat.not_lt.mpr ha)]
  exact initialByte_above_font a ha

/-- A new session's memory reads the font from 0x000 on: the image begins above it. -/
theorem read_createdMemory_font (k : Fin 80) : (createdMemory font image).read k.val = font.get k := by
  have hbelow : k.val < loadAddress := Nat.lt_trans k.isLt (by decide)
  rw [createdMemory, Memory.read_image_outside _ (.inl hbelow), Memory.read_withFont, dif_pos k.isLt]

/-- Above the font and outside the image a new session's memory reads 0. -/
theorem read_createdMemory_outside (ha : 80 ≤ a)
    (hout : a < loadAddress ∨ loadAddress + min image.length maxImage ≤ a) :
    (createdMemory font image).read a = 0#8 := by
  rw [createdMemory, Memory.read_image_outside _ hout, Memory.read_withFont_nil_above ha]

end

/-- Settles O37: a new session is State.reset but for its memory, of which each region is read off. -/
theorem createSession : Obligations.CreateSession := by
  refine fun p font image => ⟨fun htaken => ⟨_, State.create_taken htaken, State.reset_reg, rfl, rfl, rfl,
    State.reset_stack_get, rfl, rfl, State.reset_cell, State.reset_keyDown, rfl, rfl, read_createdMemory_font,
    fun a hfont hbelow => read_createdMemory_outside hfont (.inl hbelow),
    fun j b hj hb => Memory.read_image_at _ hj hb,
    fun a hpast => read_createdMemory_outside ?_ (.inr hpast)⟩, State.create_rejected⟩
  omega

end Sys2Proof.Machine
end

section
/-! The program that is done (70_reset_and_hazards.md R296 (a), D32): a session at a self-jump stays at it through calls,
ticks, key changes and read-outs. -/
namespace Sys2Proof.Machine

/-- A running session at a self-jump. -/
structure State.Resting (s : State) : Prop where
  running : s.halted = none
  atJump : s.atSelfJump

/-- From `s` to `t` the timers counted `n` ticks, and nothing else changed but keys and the list of operations. -/
def OnlyTickedOrKeyed (n : Nat) (s t : State) : Prop :=
  OthersKept [.dt, .st, .key, .pending] s t ∧ t.dt.toNat = s.dt.toNat - n ∧ t.st.toNat = s.st.toNat - n

/-- What only ticks changed is changed by ticks and keys only. -/
theorem OnlyTicked.onlyTickedOrKeyed {n : Nat} {s t : State} (h : OnlyTicked n s t) : OnlyTickedOrKeyed n s t := by
  obtain ⟨hkept, hdelay, hsound⟩ := h
  exact ⟨hkept.mono (by simp), hdelay, hsound⟩

/-- Where the timers are kept too, no tick was counted. -/
theorem OthersKept.onlyTickedOrKeyed {s t : State} (h : OthersKept [.key, .pending] s t) :
    OnlyTickedOrKeyed 0 s t := by
  have hdelay : t.dt = s.dt := h .dt (by decide)
  have hsound : t.st = s.st := h .st (by decide)
  exact ⟨h.mono (by simp), congrArg BitVec.toNat hdelay, congrArg BitVec.toNat hsound⟩

theorem OnlyTickedOrKeyed.trans {m n : Nat} {s t u : State} (hst : OnlyTickedOrKeyed m s t)
    (htu : OnlyTickedOrKeyed n t u) : OnlyTickedOrKeyed (m + n) s u := by
  obtain ⟨hkept, hdelay, hsound⟩ := hst
  obtain ⟨hkept', hdelay', hsound'⟩ := htu
  exact ⟨hkept.trans hkept', by omega, by omega⟩

/-- Being at a self-jump depends on PC and on what the memory reads, alone. -/
theorem State.atSelfJump_of_kept {L : List Part} {s t : State} (h : s.atSelfJump) (hst : OthersKept L s t)
    (hpc : .pc ∉ L) (hmem : .mem ∉ L) : t.atSelfJump := by
  obtain ⟨nnn, hfetch, htarget⟩ := h
  have hkept : t.pc = s.pc := hst .pc hpc
  exact ⟨nnn, (State.fetch_congr hkept (hst .mem hmem)).trans hfetch, htarget.trans hkept.symm⟩

/-- A tick listed in a running session counts one tick and changes nothing else. -/
theorem State.tick_onlyTicked {s : State} {rest : List Operation} (hc : s.halted = none)
    (hp : s.pending = .tick :: rest) : OnlyTicked 1 s s.takeOp.tick := by
  have hkept : OthersKept [.pending, .dt, .st] s s.takeOp.tick := .of_takeOp hp s.takeOp.tick_othersKept
  have hdelay : s.takeOp.tick.dt = countDown s.dt := State.tick_dt (s := s.takeOp) hc
  have hsound : s.takeOp.tick.st = countDown s.st := State.tick_st (s := s.takeOp) hc
  exact ⟨hkept.mono (by simp), hdelay ▸ countDown_toNat s.dt, hsound ▸ countDown_toNat s.st⟩

/-- Jumping to P after the fetch advance leaves the state as it was before it. -/
theorem State.advance_setPc_pc (s : State) : s.advance.setPc s.pc = s := rfl

/-- The operations through which a program at a self-jump rests. -/
def Undisturbing (op : Operation) : Prop :=
  op = .executeOne ∨ op = .tick ∨ op = .readDisplay ∨ ∃ k b, op = .setKey k b

section
variable {s t : State}

theorem State.Resting.onlyTickedOrKeyed {n : Nat} (h : s.Resting) (hst : OnlyTickedOrKeyed n s t) : t.Resting := by
  obtain ⟨hkept, -, -⟩ := hst
  have hhalted : t.halted = s.halted := hkept .halted (by decide)
  exact ⟨hhalted.trans h.running, State.atSelfJump_of_kept h.atJump hkept (by decide) (by decide)⟩

/-- A call at a self-jump executes the jump, which goes back to P. -/
theorem State.Resting.step_call (h : s.Resting) (hn : s.nextOp = .executeOne) :
    step s = .next (s.takeOp.setOut Output.ok) := by
  obtain ⟨nnn, hfetch, htarget⟩ := h.atJump
  have hjump : s.takeOp.advance.setPc (zextAddr nnn) = s.takeOp := htarget ▸ s.takeOp.advance_setPc_pc
  calc step s = exec (.jp nnn) s.takeOp.advance := step_decoded hn h.running hfetch (decodeWord_encode rfl)
    _ = (s.takeOp.advance.setPc (zextAddr nnn)).complete := rfl
    _ = .next (s.takeOp.setOut Output.ok) := by rw [hjump, State.complete_eq]

/-- At a self-jump a listed tick changes the timers, a listed setKey the keys, a listed call or read-out nothing. -/
theorem State.Resting.step_listed {op : Operation} {rest : List Operation} (h : s.Resting)
    (hp : s.pending = op :: rest) (hop : Undisturbing op) :
    ∃ t, step s = .next t ∧ OnlyTickedOrKeyed ([op].count .tick) s t := by
  have hn : s.nextOp = op := State.nextOp_pending hp
  have hout (o : Output) : OnlyTickedOrKeyed 0 s (s.takeOp.setOut o) :=
    ((OthersKept.of_takeOp hp (OthersKept.setOut _ o)).mono (by simp)).onlyTickedOrKeyed
  rcases hop with rfl | rfl | rfl | ⟨k, b, rfl⟩
  · exact ⟨_, h.step_call hn, hout _⟩
  · exact ⟨_, step_operation hn, (State.tick_onlyTicked h.running hp).onlyTickedOrKeyed⟩
  · exact ⟨_, step_operation hn, hout _⟩
  · have hkey := OthersKept.of_takeOp hp (OthersKept.pressKey s.takeOp k b)
    exact ⟨_, step_operation hn, (hkey.mono (by simp)).onlyTickedOrKeyed⟩

/-- A run over listed calls, ticks, key changes and read-outs from a self-jump counts its ticks, changes nothing else
but keys, and ends at the self-jump. -/
theorem State.Resting.run_listed {ops rest : List Operation} (h : s.Resting) (hp : s.pending = ops ++ rest)
    (hops : ∀ op ∈ ops, Undisturbing op) :
    ∃ t, Sys2Proof.core.run ops.length s = .next t ∧ t.pending = rest ∧
      OnlyTickedOrKeyed (ops.count .tick) s t := by
  induction ops generalizing s with
  | nil => exact ⟨s, rfl, hp, (OnlyTicked.refl s).onlyTickedOrKeyed⟩
  | cons op ops ih =>
    obtain ⟨hop, hops⟩ := List.forall_mem_cons.mp hops
    obtain ⟨t, hstep, hst⟩ := h.step_listed hp hop
    obtain ⟨-, hpt⟩ := step_pending hp hstep
    obtain ⟨u, hrun, hpu, htu⟩ := ih (h.onlyTickedOrKeyed hst) hpt hops
    have hcount : (op :: ops).count .tick = [op].count .tick + ops.count .tick := List.count_append (l₁ := [op])
    exact ⟨u, (core_run_succ _ _ _ hstep).trans hrun, hpu, hcount ▸ hst.trans htu⟩

end

/-- Settles O60: the call that jumps back to P, and the run by induction on the list of operations. -/
theorem selfJumpRests : Obligations.SelfJumpRests := by
  intro s hc hjump
  have hrest : s.Resting := ⟨hc, hjump⟩
  refine ⟨fun hn => ?_, fun ops rest hp hops => ?_⟩
  · have hkept : OthersKept [] s.takeOp (s.takeOp.setOut Output.ok) := OthersKept.setOut _ _
    exact ⟨_, hrest.step_call hn, rfl, hkept,
      State.atSelfJump_of_kept (s := s.takeOp) hjump hkept List.not_mem_nil List.not_mem_nil⟩
  · obtain ⟨t, hrun, hpt, hst⟩ := hrest.run_listed hp hops
    obtain ⟨-, hjump'⟩ := hrest.onlyTickedOrKeyed hst
    obtain ⟨hkept, hdelay, hsound⟩ := hst
    exact ⟨t, hrun, hpt, hkept, hjump', hdelay, hsound⟩

end Sys2Proof.Machine
end

section
/-! CALL and RET where SP is above 16 (notes/assumptions/7.md). -/
namespace Sys2Proof.Machine

/-- CALL with SP above 16 finds no slot to push to, and SP is not the 16 of R242. -/
theorem execCall_above (nnn : Addr12) {s : State} (hs : 16 < s.sp.toNat) :
    exec (.call nnn) s = .fault .illegalStackPointer := by
  have hfull : s.sp ≠ 16#8 := by bv_omega
  have hslot : ¬ s.sp.toNat < 16 := by omega
  exact (if_neg hfull).trans (dif_neg hslot)

/-- RET with SP above 16 finds no slot under SP, and the stack is not empty. -/
theorem execRet_above {s : State} (hs : 16 < s.sp.toNat) : exec .ret s = .fault .illegalStackPointer := by
  have hused : s.sp ≠ 0#8 := by bv_omega
  have hslot : ¬ s.sp.toNat - 1 < 16 := by omega
  exact (if_neg hused).trans (dif_neg hslot)

/-- Settles O13: an SP above 16 is neither of the raising values, and names no slot. -/
theorem illegalStackPointerStops : Obligations.IllegalStackPointerStops :=
  fun nnn _ hs => ⟨execCall_above nnn hs, execRet_above hs⟩

end Sys2Proof.Machine
end
